-- ==== Sys2Proof/Word.lean ====
section
/-!
DEFINITION. The word types of the CORE (spec/00_scope.md R11, R12): unsigned values of 8, 16 and 32 bits, byte strings,
bit strings, and the map over the 256 peer addresses (R14). `Time` (R11, R312) is `Nat`, in an unspecified unit.
-/

namespace Sys2Proof

/-- An unsigned 8-bit value (R11). -/
abbrev Byte := BitVec 8

/-- A peer address (R11, R61). -/
abbrev Addr := BitVec 8

/-- A sequence number; its arithmetic is modulo 256 (R11). -/
abbrev Seq := BitVec 8

/-- An unsigned 16-bit value (R11). -/
abbrev U16 := BitVec 16

/-- An unsigned 32-bit value (R11). -/
abbrev U32 := BitVec 32

/-- A byte string, first byte first (R11, R13). -/
abbrev Bytes := List Byte

/-- A bit string, first and most significant bit first (R12). -/
abbrev Bits := List Bool

/-- A map total over the 256 peer addresses (R14). -/
abbrev PeerMap (α : Type) := Vector α 256

end Sys2Proof
end

