-- ==== Sys2Proof/Syntax.lean ====
section
/-!
DEFINITION. The operations and wire patterns of the CORE: one constructor of `Instr` per row of
spec/opcode_table.json (38 operations of spec/30_encoding.md R118, 5 wire patterns of R119), with the operands the row
and its rule give.
-/

namespace Sys2Proof

/-- A profile A frame record (spec/41_frame_codec.md R151). `ty` is the raw type byte.
The record's bound of 255 payload bytes is WellFormed's (log 30). -/
structure Frame where
  src : Byte
  dst : Byte
  seq : Byte
  ty : Byte
  payload : Bytes
  deriving DecidableEq, Repr

/-- One operation, or one wire pattern reaching the node. -/
inductive Instr
  /-- `RESET` (R250). -/
  | reset
  /-- `CONFIG` (R251). -/
  | config (r : CfgRequest)
  /-- `SUBMIT` (R253). -/
  | submit (dst : Addr) (payload : Bytes)
  /-- `RX_BYTES` (R260). -/
  | rxBytes (bytes : Bytes)
  /-- `TICK` (R254), with the draws it supplies, in call order. -/
  | tick (now : Nat) (free : List Draw)
  /-- `SHUTDOWN` (R262). -/
  | shutdown
  /-- `STATS.READ` (R53). -/
  | statsRead
  /-- `CRC16.TABLE` (R131). -/
  | crc16Table
  /-- `CRC16` (R133). -/
  | crc16 (bytes : Bytes)
  /-- `CRC16.VERIFY` (R135). -/
  | crc16Verify (bytes : Bytes) (c : U16)
  /-- `CRC32.REM` (R137). -/
  | crc32Rem (bits : Bits)
  /-- `CRC32.CHECK` (R139). -/
  | crc32Check (bits : Bits)
  /-- `CRC32.GEN` (R141). -/
  | crc32Gen (bits : Bits)
  /-- `FRAME.ENCODE` (R152). -/
  | frameEncode (src : Byte) (dst : Byte) (seq : Byte) (ty : Byte) (payload : Bytes)
  /-- `FRAME.DECODE` (R156). -/
  | frameDecode (buf : Bytes)
  /-- `BFRAME.ENCODE` (R166). -/
  | bframeEncode (addr : Nat) (seq : Nat) (chunk : Bits)
  /-- `BFRAME.CHECK` (R168). -/
  | bframeCheck (bits : Bits)
  /-- `SEQ.ALLOC` (R181). -/
  | seqAlloc (dst : Addr)
  /-- `SEQ.DIST` (R183). -/
  | seqDist (a : Seq) (b : Seq)
  /-- `SEQ.NEWER` (R184). -/
  | seqNewer (a : Seq) (b : Seq)
  /-- `SEQ.ACCEPT` (R186). -/
  | seqAccept (src : Addr) (n : Seq)
  /-- `WIN.PUSH` (R189); the entry's `feedback_already_sent` is `false` by the operand's own form. -/
  | winPush (dst : Addr) (seq : Seq) (frame : Bytes) (lastOfMessage : Bool)
  /-- `WIN.COVER` (R190). -/
  | winCover (dst : Addr) (n : Seq)
  /-- `WIN.SLIDE` (R191). -/
  | winSlide (dst : Addr) (k : Nat)
  /-- `WIN.CLEAR` (R192). -/
  | winClear (dst : Addr)
  /-- `SW.START` (R201). -/
  | swStart (dst : Addr) (payload : Bytes)
  /-- `SW.ACK` (R203). -/
  | swAck (src : Addr) (n : Seq)
  /-- `SW.TIMEOUT` (R205). -/
  | swTimeout (dst : Addr)
  /-- `GBN.ADMIT` (R221). -/
  | gbnAdmit (dst : Addr) (payload : Bytes)
  /-- `GBN.ACK` (R224). -/
  | gbnAck (src : Addr) (n : Seq)
  /-- `GBN.TIMEOUT` (R226). -/
  | gbnTimeout (dst : Addr)
  /-- `MAC.SEND` (R241), with the draw it supplies. -/
  | macSend (frame : Bytes) (t : Nat) (free : Draw)
  /-- `NODE.ACKS` (R255). -/
  | nodeAcks
  /-- `NODE.TIMERS` (R256). -/
  | nodeTimers
  /-- `NODE.ADMIT` (R258). -/
  | nodeAdmit
  /-- `NODE.RX` (R259). -/
  | nodeRx
  /-- `NODE.RX_FRAME` (R263). -/
  | nodeRxFrame (f : Frame)
  /-- `NODE.RX_DATA` (R264). -/
  | nodeRxData (f : Frame)
  /-- Wire pattern `DATA`: a CRC-valid frame of type 0x01 (R103). -/
  | data (src : Addr) (dst : Addr) (seq : Seq) (payload : Bytes)
  /-- Wire pattern `ACK`: a CRC-valid frame of type 0x02 with `len = 0` (R103). -/
  | ack (src : Addr) (dst : Addr) (seq : Seq)
  /-- Wire pattern `ACK_WITH_PAYLOAD`: a CRC-valid frame of type 0x02 with `len ≠ 0` (R103). -/
  | ackWithPayload (src : Addr) (dst : Addr) (seq : Seq) (payload : Bytes)
  /-- Wire pattern `UNKNOWN_TYPE`: a CRC-valid frame of any other type (R103). -/
  | unknownType (src : Addr) (dst : Addr) (seq : Seq) (ty : Byte) (payload : Bytes)
  /-- Wire pattern `BFRAME`: a profile B bit string (R105). -/
  | bframe (addr : BitVec 2) (seq : BitVec 6) (chunk : Bits) (crc : U32)
  deriving DecidableEq, Repr

/-- The three formats of the table's rows (R119). -/
inductive Format
  /-- An operation: an 8-bit select code and its operands. -/
  | op
  /-- A profile A frame as the Frame Codec hands it on: header and payload. -/
  | aFrame
  /-- A profile B bit string. -/
  | bFrame
  deriving DecidableEq, Repr

/-- Who invokes an operation (R118, "kind"): the host, or the CORE itself from inside another operation. -/
inductive Issuer
  | host
  | core
  deriving DecidableEq, Repr

/-- The kind column of R118, and for the wire rows the side they reach the CORE on: a profile A frame is routed by
`NODE.RX`, an internal operation; a profile B bit string is given to `BFRAME.CHECK`, a host operation. -/
def Instr.kind : Instr → Issuer
  | .reset | .config _ | .submit _ _ | .rxBytes _ | .tick _ _ | .shutdown | .statsRead => .host
  | .bframeEncode _ _ _ | .bframeCheck _ | .bframe _ _ _ _ => .host
  | .crc16Table | .crc16 _ | .crc16Verify _ _ | .crc32Rem _ | .crc32Check _ | .crc32Gen _ => .core
  | .frameEncode _ _ _ _ _ | .frameDecode _ => .core
  | .seqAlloc _ | .seqDist _ _ | .seqNewer _ _ | .seqAccept _ _ => .core
  | .winPush _ _ _ _ | .winCover _ _ | .winSlide _ _ | .winClear _ => .core
  | .swStart _ _ | .swAck _ _ | .swTimeout _ => .core
  | .gbnAdmit _ _ | .gbnAck _ _ | .gbnTimeout _ => .core
  | .macSend _ _ _ => .core
  | .nodeAcks | .nodeTimers | .nodeAdmit | .nodeRx | .nodeRxFrame _ | .nodeRxData _ => .core
  | .data _ _ _ _ | .ack _ _ _ | .ackWithPayload _ _ _ _ | .unknownType _ _ _ _ _ => .core

end Sys2Proof
end

