-- ==== Sys2Proof/WellFormed.lean ====
section
/-!
DEFINITION. The operand ranges each row of spec/opcode_table.json and its rule state, as one decidable check on an
instruction. What depends on the configuration or the state (a chunk's length, room in a window) is checked by the
meaning.
-/

namespace Sys2Proof

/-- A payload that fits the `len` byte (spec/30_encoding.md R98). -/
def fitsLen (p : Bytes) : Bool := decide (p.length ≤ 255)

/-- The operands lie in the ranges the table gives them. -/
def Instr.wellFormed : Instr → Bool
  | .reset | .config _ | .submit _ _ | .rxBytes _ | .tick _ _ | .shutdown | .statsRead => true
  | .crc16Table | .crc16 _ | .crc16Verify _ _ | .crc32Rem _ | .crc32Check _ | .crc32Gen _ => true
  | .frameEncode _ _ _ ty p => ty == typeData || (ty == typeAck && p.isEmpty)
  | .frameDecode _ => true
  | .bframeEncode a s _ => decide (a ≤ 3) && decide (s ≤ 63)
  | .bframeCheck _ => true
  | .seqAlloc _ | .seqDist _ _ | .seqNewer _ _ | .seqAccept _ _ => true
  | .winPush _ _ _ _ | .winCover _ _ | .winClear _ => true
  | .winSlide _ k => decide (1 ≤ k)
  | .swStart _ p => fitsLen p
  | .swAck _ _ | .swTimeout _ => true
  | .gbnAdmit _ p => fitsLen p
  | .gbnAck _ _ | .gbnTimeout _ | .macSend _ _ _ => true
  | .nodeAcks | .nodeTimers | .nodeAdmit | .nodeRx => true
  | .nodeRxFrame f => fitsLen f.payload
  | .nodeRxData f => f.ty == typeData && fitsLen f.payload
  | .data _ _ _ p => fitsLen p
  | .ack _ _ _ => true
  | .ackWithPayload _ _ _ p => fitsLen p && !p.isEmpty
  | .unknownType _ _ _ ty p => fitsLen p && ty != typeData && ty != typeAck
  | .bframe _ _ _ _ => true

end Sys2Proof
end

