-- ==== Sys2Proof/Decode.lean ====
section
/-!
DEFINITION. The decoder, total on any bytes and rejecting by name, and after it the encoder. The operation-select codes
are those of spec/30_encoding.md R118, the header of a profile A frame and its classes those of R91, R103 and R119, the
profile B layout that of R105. The spec gives the operands of an operation no binary layout (spec/00_scope.md R3): the
layout below is the model's (log 2, log 3, log 4).
-/

namespace Sys2Proof

/-- Why bytes decode to no instruction. -/
inductive DecodeError
  /-- No byte at all. -/
  | empty
  /-- A select code that R118 does not list: it selects no operation (U17). -/
  | reservedOpsel (code : Byte)
  /-- The operands run past the end of the request. -/
  | truncated
  /-- A byte that stands for a truth value or a bit is neither 0 nor 1 (log 2, log 4). -/
  | badBit
  /-- Bytes other than zero padding stand after the operands. -/
  | trailing
  /-- A profile B bit string of fewer than 40 bits. -/
  | shortBFrame
  deriving DecidableEq, Repr

/-! ### Bit strings and numbers (R12) -/

/-- `val(bits)`: the number a bit string writes, most significant bit first; 0 for the empty string. -/
def bitsVal (b : Bits) : Nat := b.foldl (fun acc x => 2 * acc + x.toNat) 0

/-- `bin_W(v)`: the W-bit string of v, most significant bit first. -/
def binW : Nat → Nat → Bits
  | 0, _ => []
  | w + 1, v => v.testBit w :: binW w v

/-- `bitlen(v)`: the position of the highest set bit plus one, and 0 for 0. -/
def bitlen (v : Nat) : Nat := if v = 0 then 0 else v.log2 + 1

/-! ### The operand bytes -/

/-- A parser of operand bytes: it takes bytes from the front or rejects by name. -/
abbrev Parser (α : Type) := StateT Bytes (Except DecodeError) α

/-- A natural number: seven bits a byte, low bits first, bit 7 set on all bytes but the last. -/
def decNat : Bytes → Except DecodeError (Nat × Bytes)
  | [] => .error .truncated
  | b :: bs =>
    if b.toNat < 128 then .ok (b.toNat, bs)
    else match decNat bs with
      | .error e => .error e
      | .ok (v, r) => .ok (b.toNat - 128 + 128 * v, r)

/-- The bytes of a natural number, with enough fuel. -/
def encNatFuel : Nat → Nat → Bytes
  | 0, n => [BitVec.ofNat 8 n]
  | f + 1, n => if n < 128 then [BitVec.ofNat 8 n] else BitVec.ofNat 8 (128 + n % 128) :: encNatFuel f (n / 128)

/-- The bytes of a natural number. -/
def encNat (n : Nat) : Bytes := encNatFuel n n

/-- A truth value as a byte. -/
def boolByte (b : Bool) : Byte := if b then 1 else 0

/-- One byte. -/
def getByte : Parser Byte := fun bs =>
  match bs with
  | [] => .error .truncated
  | b :: r => .ok (b, r)

/-- One number. -/
def getNat : Parser Nat := fun bs => decNat bs

/-- One truth value or bit: byte 0 is false, byte 1 is true, and every other byte is refused. The spec lays no operand
out in bytes; DESIGN CHOICE: log 2, and log 4 for the bits of profile B. -/
def getBool : Parser Bool := fun bs =>
  match bs with
  | [] => .error .truncated
  | b :: r => if b = 0 then .ok (false, r) else if b = 1 then .ok (true, r) else .error .badBit

/-- The next n bytes. -/
def takeBytes (n : Nat) : Parser Bytes := fun bs =>
  if n ≤ bs.length then .ok (bs.take n, bs.drop n) else .error .truncated

/-- A byte string: its length, then its bytes. -/
def getBytes : Parser Bytes := do
  let n ← getNat
  takeBytes n

/-- n items. -/
def getMany {α : Type} (p : Parser α) : Nat → Parser (List α)
  | 0 => pure []
  | n + 1 => do
    let a ← p
    let as ← getMany p n
    pure (a :: as)

/-- A bit string: its length, then one byte a bit. -/
def getBits : Parser Bits := do
  let n ← getNat
  getMany getBool n

/-- A 16-bit value, high byte first. -/
def getU16 : Parser U16 := do
  let h ← getByte
  let l ← getByte
  pure (h ++ l)

/-- A draw. -/
def getDraw : Parser Draw := do
  let g ← getBool
  let d ← getNat
  pure ⟨g, d⟩

/-- A list of draws: their number, then each. -/
def getDraws : Parser (List Draw) := do
  let n ← getNat
  getMany getDraw n

/-- A frame record: its four header bytes, then the payload, whose length is not held to the 255 bytes of R151. DESIGN
CHOICE: log 30. -/
def getFrame : Parser Frame := do
  let s ← getByte
  let d ← getByte
  let q ← getByte
  let t ← getByte
  let p ← getBytes
  pure ⟨s, d, q, t, p⟩

/-- A configuration record, its fields in the order of R8. -/
def getCfgRequest : Parser CfgRequest := do
  let nodeAddr ← getByte
  let arqMode ← getByte
  let windowSize ← getNat
  let maxRetries ← getNat
  let arqTimeout ← getNat
  let pollInterval ← getNat
  let num ← getNat
  let den ← getNat
  let backoffMin ← getNat
  let backoffMax ← getNat
  let pre ← getBytes
  let syncWord ← getBytes
  let resyncMode ← getByte
  let txqCap ← getNat
  let profileB ← getBool
  let chunkBits ← getNat
  pure ⟨nodeAddr, arqMode, windowSize, maxRetries, arqTimeout, pollInterval, ⟨num, den⟩, backoffMin, backoffMax,
    pre, syncWord, resyncMode, txqCap, profileB, chunkBits⟩

/-- The operands that follow a select code (R118). -/
def getOperands (code : Byte) : Parser Instr :=
  match code.toNat with
  | 0x00 => pure .reset
  | 0x01 => do let r ← getCfgRequest; pure (.config r)
  | 0x02 => do let d ← getByte; let p ← getBytes; pure (.submit d p)
  | 0x03 => do let b ← getBytes; pure (.rxBytes b)
  | 0x04 => do let t ← getNat; let f ← getDraws; pure (.tick t f)
  | 0x05 => pure .shutdown
  | 0x06 => pure .statsRead
  | 0x10 => pure .crc16Table
  | 0x11 => do let b ← getBytes; pure (.crc16 b)
  | 0x12 => do let b ← getBytes; let c ← getU16; pure (.crc16Verify b c)
  | 0x13 => do let b ← getBits; pure (.crc32Rem b)
  | 0x14 => do let b ← getBits; pure (.crc32Check b)
  | 0x15 => do let b ← getBits; pure (.crc32Gen b)
  | 0x20 => do let f ← getFrame; pure (.frameEncode f.src f.dst f.seq f.ty f.payload)
  | 0x21 => do let b ← getBytes; pure (.frameDecode b)
  | 0x22 => do let a ← getNat; let s ← getNat; let c ← getBits; pure (.bframeEncode a s c)
  | 0x23 => do let b ← getBits; pure (.bframeCheck b)
  | 0x30 => do let d ← getByte; pure (.seqAlloc d)
  | 0x31 => do let a ← getByte; let b ← getByte; pure (.seqDist a b)
  | 0x32 => do let a ← getByte; let b ← getByte; pure (.seqNewer a b)
  | 0x33 => do let s ← getByte; let n ← getByte; pure (.seqAccept s n)
  | 0x34 => do let d ← getByte; let q ← getByte; let f ← getBytes; let l ← getBool; pure (.winPush d q f l)
  | 0x35 => do let d ← getByte; let n ← getByte; pure (.winCover d n)
  | 0x36 => do let d ← getByte; let k ← getNat; pure (.winSlide d k)
  | 0x37 => do let d ← getByte; pure (.winClear d)
  | 0x40 => do let d ← getByte; let p ← getBytes; pure (.swStart d p)
  | 0x41 => do let s ← getByte; let n ← getByte; pure (.swAck s n)
  | 0x42 => do let d ← getByte; pure (.swTimeout d)
  | 0x48 => do let d ← getByte; let p ← getBytes; pure (.gbnAdmit d p)
  | 0x49 => do let s ← getByte; let n ← getByte; pure (.gbnAck s n)
  | 0x4A => do let d ← getByte; pure (.gbnTimeout d)
  | 0x50 => do let f ← getBytes; let t ← getNat; let d ← getDraw; pure (.macSend f t d)
  | 0x60 => pure .nodeAcks
  | 0x61 => pure .nodeTimers
  | 0x62 => pure .nodeAdmit
  | 0x63 => pure .nodeRx
  | 0x64 => do let f ← getFrame; pure (.nodeRxFrame f)
  | 0x65 => do let f ← getFrame; pure (.nodeRxData f)
  | _ => throw (.reservedOpsel code)

/-- An operation at the front of a byte string, and what stands after it. -/
def decodeOp : Bytes → Except DecodeError (Instr × Bytes)
  | [] => .error .empty
  | code :: bs => (getOperands code).run bs

/-- The class of a CRC-valid profile A frame (R103, R119). -/
def classifyFrame (src dst seq ty : Byte) (p : Bytes) : Instr :=
  if ty = typeData then .data src dst seq p
  else if ty = typeAck then
    (if p.isEmpty then .ack src dst seq else .ackWithPayload src dst seq p)
  else .unknownType src dst seq ty p

/-- A profile A frame at the front of a byte string: the header `src dst seq type len` (R93), then `len` payload
bytes, and what stands after it. The CRC field is the codec's and is not part of the record (R151). -/
def decodeAFrame : Bytes → Except DecodeError (Instr × Bytes)
  | src :: dst :: seq :: ty :: len :: rest =>
    if len.toNat ≤ rest.length then
      .ok (classifyFrame src dst seq ty (rest.take len.toNat), rest.drop len.toNat)
    else .error .truncated
  | [] => .error .empty
  | _ => .error .truncated

/-- A profile B bit string, cut into the fields of R105. -/
def splitBFrame (b : Bits) : Except DecodeError Instr :=
  if b.length < 40 then .error .shortBFrame
  else
    let c := b.length - 40
    .ok (.bframe (BitVec.ofNat 2 (bitsVal (b.take 2))) (BitVec.ofNat 6 (bitsVal ((b.drop 2).take 6)))
      ((b.drop 8).take c) (BitVec.ofNat 32 (bitsVal (b.drop (8 + c)))))

/-- A profile B request: one byte a bit (log 4). -/
def decodeBFrame (bs : Bytes) : Except DecodeError Instr :=
  match getMany getBool bs.length bs with
  | .error e => .error e
  | .ok (b, _) => splitBFrame b

/-- Only zero padding stands after the operands. -/
def dropPadding : Except DecodeError (Instr × Bytes) → Except DecodeError Instr
  | .error e => .error e
  | .ok (i, rest) => if rest.all (· == 0) then .ok i else .error .trailing

/-- The instruction that the bytes of a request of one format hold. -/
def decode : Format → Bytes → Except DecodeError Instr
  | .op, bs => dropPadding (decodeOp bs)
  | .aFrame, bs => dropPadding (decodeAFrame bs)
  | .bFrame, bs => decodeBFrame bs

/-! ### The encoder -/

/-- A byte string as operand bytes. -/
def encBytes (b : Bytes) : Bytes := encNat b.length ++ b

/-- A bit string as operand bytes. -/
def encBits (b : Bits) : Bytes := encNat b.length ++ b.map boolByte

/-- A 16-bit value as operand bytes, high byte first. -/
def encU16 (c : U16) : Bytes := [c.extractLsb' 8 8, c.extractLsb' 0 8]

/-- A draw as operand bytes. -/
def encDraw (d : Draw) : Bytes := boolByte d.go :: encNat d.delay

/-- A list of draws as operand bytes. -/
def encDraws (ds : List Draw) : Bytes := encNat ds.length ++ ds.flatMap encDraw

/-- A frame record as operand bytes. -/
def encFrame (f : Frame) : Bytes := [f.src, f.dst, f.seq, f.ty] ++ encBytes f.payload

/-- A configuration record as operand bytes. -/
def encCfgRequest (r : CfgRequest) : Bytes :=
  [r.nodeAddr, r.arqMode] ++ encNat r.windowSize ++ encNat r.maxRetries ++ encNat r.arqTimeout ++ encNat r.pollInterval
    ++ encNat r.alohaProb.num ++ encNat r.alohaProb.den ++ encNat r.backoffMin ++ encNat r.backoffMax
    ++ encBytes r.preamble ++ encBytes r.syncWord ++ [r.resyncMode] ++ encNat r.txqCap ++ [boolByte r.profileBEnable]
    ++ encNat r.chunkBits

/-- The header and payload of a profile A frame (R91, R93). -/
def encAFrame (src dst seq ty : Byte) (p : Bytes) : Bytes := [src, dst, seq, ty, BitVec.ofNat 8 p.length] ++ p

/-- The words of an instruction, in the format of its row. -/
def encode : Instr → Format × Bytes
  | .reset => (.op, [0x00])
  | .config r => (.op, 0x01 :: encCfgRequest r)
  | .submit d p => (.op, 0x02 :: d :: encBytes p)
  | .rxBytes b => (.op, 0x03 :: encBytes b)
  | .tick t f => (.op, 0x04 :: (encNat t ++ encDraws f))
  | .shutdown => (.op, [0x05])
  | .statsRead => (.op, [0x06])
  | .crc16Table => (.op, [0x10])
  | .crc16 b => (.op, 0x11 :: encBytes b)
  | .crc16Verify b c => (.op, 0x12 :: (encBytes b ++ encU16 c))
  | .crc32Rem b => (.op, 0x13 :: encBits b)
  | .crc32Check b => (.op, 0x14 :: encBits b)
  | .crc32Gen b => (.op, 0x15 :: encBits b)
  | .frameEncode s d q t p => (.op, 0x20 :: encFrame ⟨s, d, q, t, p⟩)
  | .frameDecode b => (.op, 0x21 :: encBytes b)
  | .bframeEncode a s c => (.op, 0x22 :: (encNat a ++ encNat s ++ encBits c))
  | .bframeCheck b => (.op, 0x23 :: encBits b)
  | .seqAlloc d => (.op, [0x30, d])
  | .seqDist a b => (.op, [0x31, a, b])
  | .seqNewer a b => (.op, [0x32, a, b])
  | .seqAccept s n => (.op, [0x33, s, n])
  | .winPush d q f l => (.op, 0x34 :: d :: q :: (encBytes f ++ [boolByte l]))
  | .winCover d n => (.op, [0x35, d, n])
  | .winSlide d k => (.op, 0x36 :: d :: encNat k)
  | .winClear d => (.op, [0x37, d])
  | .swStart d p => (.op, 0x40 :: d :: encBytes p)
  | .swAck s n => (.op, [0x41, s, n])
  | .swTimeout d => (.op, [0x42, d])
  | .gbnAdmit d p => (.op, 0x48 :: d :: encBytes p)
  | .gbnAck s n => (.op, [0x49, s, n])
  | .gbnTimeout d => (.op, [0x4A, d])
  | .macSend f t d => (.op, 0x50 :: (encBytes f ++ encNat t ++ encDraw d))
  | .nodeAcks => (.op, [0x60])
  | .nodeTimers => (.op, [0x61])
  | .nodeAdmit => (.op, [0x62])
  | .nodeRx => (.op, [0x63])
  | .nodeRxFrame f => (.op, 0x64 :: encFrame f)
  | .nodeRxData f => (.op, 0x65 :: encFrame f)
  | .data s d q p => (.aFrame, encAFrame s d q typeData p)
  | .ack s d q => (.aFrame, encAFrame s d q typeAck [])
  | .ackWithPayload s d q p => (.aFrame, encAFrame s d q typeAck p)
  | .unknownType s d q t p => (.aFrame, encAFrame s d q t p)
  | .bframe a s c k => (.bFrame, (binW 2 a.toNat ++ binW 6 s.toNat ++ c ++ binW 32 k.toNat).map boolByte)

/-- The format of an instruction's row (R119). -/
def Instr.format : Instr → Format
  | .data _ _ _ _ | .ack _ _ _ | .ackWithPayload _ _ _ _ | .unknownType _ _ _ _ _ => .aFrame
  | .bframe _ _ _ _ => .bFrame
  | .reset | .config _ | .submit _ _ | .rxBytes _ | .tick _ _ | .shutdown | .statsRead => .op
  | .crc16Table | .crc16 _ | .crc16Verify _ _ | .crc32Rem _ | .crc32Check _ | .crc32Gen _ => .op
  | .frameEncode _ _ _ _ _ | .frameDecode _ | .bframeEncode _ _ _ | .bframeCheck _ => .op
  | .seqAlloc _ | .seqDist _ _ | .seqNewer _ _ | .seqAccept _ _ => .op
  | .winPush _ _ _ _ | .winCover _ _ | .winSlide _ _ | .winClear _ => .op
  | .swStart _ _ | .swAck _ _ | .swTimeout _ | .gbnAdmit _ _ | .gbnAck _ _ | .gbnTimeout _ => .op
  | .macSend _ _ _ | .nodeAcks | .nodeTimers | .nodeAdmit | .nodeRx | .nodeRxFrame _ | .nodeRxData _ => .op

/-- The first word of an instruction: the select code of an operation (R118), the first header byte of a profile A
frame (R91), the first bit of a profile B bit string (R105). -/
def Instr.firstByte : Instr → Byte
  | .reset => 0x00
  | .config _ => 0x01
  | .submit _ _ => 0x02
  | .rxBytes _ => 0x03
  | .tick _ _ => 0x04
  | .shutdown => 0x05
  | .statsRead => 0x06
  | .crc16Table => 0x10
  | .crc16 _ => 0x11
  | .crc16Verify _ _ => 0x12
  | .crc32Rem _ => 0x13
  | .crc32Check _ => 0x14
  | .crc32Gen _ => 0x15
  | .frameEncode _ _ _ _ _ => 0x20
  | .frameDecode _ => 0x21
  | .bframeEncode _ _ _ => 0x22
  | .bframeCheck _ => 0x23
  | .seqAlloc _ => 0x30
  | .seqDist _ _ => 0x31
  | .seqNewer _ _ => 0x32
  | .seqAccept _ _ => 0x33
  | .winPush _ _ _ _ => 0x34
  | .winCover _ _ => 0x35
  | .winSlide _ _ => 0x36
  | .winClear _ => 0x37
  | .swStart _ _ => 0x40
  | .swAck _ _ => 0x41
  | .swTimeout _ => 0x42
  | .gbnAdmit _ _ => 0x48
  | .gbnAck _ _ => 0x49
  | .gbnTimeout _ => 0x4A
  | .macSend _ _ _ => 0x50
  | .nodeAcks => 0x60
  | .nodeTimers => 0x61
  | .nodeAdmit => 0x62
  | .nodeRx => 0x63
  | .nodeRxFrame _ => 0x64
  | .nodeRxData _ => 0x65
  | .data src _ _ _ | .ack src _ _ | .ackWithPayload src _ _ _ | .unknownType src _ _ _ _ => src
  | .bframe addr _ _ _ => boolByte (addr.toNat.testBit 1)

/-! ### The table's words -/

/-- How many zero bytes stand above the bits a table row gives: for an operation more than any operands of zeros take
(a configuration record takes 16); for a profile A header exactly the payload that its length byte announces. -/
def padLength (nbits w : Nat) : Nat := if nbits ≤ 8 then 24 else w % 256

/-- The format of a row, told from the number of bits the table gives it: 8 for an operation, at most 40 for the header
value H of R119, more for a profile B bit string (log 3). -/
def tableFormat (nbits : Nat) : Format := if nbits ≤ 8 then .op else if nbits ≤ 40 then .aFrame else .bFrame

/-- The bytes of an instruction whose bits are w, as the table numbers them, with zeros above: an operation's select
code; H with `src` in its highest byte (R119); a profile B bit string with its first bit highest (R105). -/
def tableBytes (nbits w : Nat) : Bytes :=
  match tableFormat nbits with
  | .op => BitVec.ofNat 8 w :: List.replicate (padLength nbits w) 0
  | .aFrame =>
    [BitVec.ofNat 8 (w >>> 32), BitVec.ofNat 8 (w >>> 24), BitVec.ofNat 8 (w >>> 16), BitVec.ofNat 8 (w >>> 8),
      BitVec.ofNat 8 w] ++ List.replicate (padLength nbits w) 0
  | .bFrame => (binW nbits w).map boolByte

/-- The instruction the decoder reads from a table row's word. -/
def decodeTableWord (nbits w : Nat) : Option Instr :=
  match decode (tableFormat nbits) (tableBytes nbits w) with
  | .ok i => some i
  | .error _ => none

end Sys2Proof
end

