-- ==== Sys2Proof/Machine/State.lean ====
section
/-!
DEFINITION. The state record `S` of spec/10_state.md R20, field by field (R21 to R51), the model's own fields beside it
(the response register, the error trace, the draws, the request port), the reasons a step can be refused, and the state
after reset (R45).
-/

namespace Sys2Proof.Machine

/-- The run mode (R21). -/
inductive Mode
  | unconfigured
  | run
  | stopped
  deriving DecidableEq, Repr

/-- The stored state of a Stop-and-Wait exchange (R29, R32). -/
inductive SwPhase
  | idle
  | awaitAck
  deriving DecidableEq, Repr

/-- One entry of `sw` (R29). Only `state` is meaningful while it is `idle`. -/
structure SwEntry where
  state : SwPhase
  frame : Bytes
  seq : Seq
  retry : Nat
  deadline : Nat
  deriving DecidableEq, Repr

/-- One entry of a Go-Back-N window (R30, R33). -/
structure WinEntry where
  seq : Seq
  frame : Bytes
  feedbackAlreadySent : Bool
  lastOfMessage : Bool
  deriving DecidableEq, Repr

/-- One entry of `gbn` (R30): `IDLE` exactly when the window is empty. -/
structure GbnEntry where
  window : List WinEntry
  retry : Nat
  deadline : Nat
  deriving DecidableEq, Repr

/-- One queued message of `txq` (R36). -/
structure Message where
  dst : Addr
  payload : Bytes
  deriving DecidableEq, Repr

/-- One entry of `ackq` (R37). -/
structure AckNote where
  src : Addr
  seq : Seq
  deriving DecidableEq, Repr

/-- The eight statistics counters (R34), unbounded (R35). -/
structure Counters where
  txData : Nat
  rxData : Nat
  txAck : Nat
  rxAck : Nat
  retx : Nat
  crcFail : Nat
  winTimeout : Nat
  protoViolation : Nat
  deriving DecidableEq, Repr

/-- All counters at zero (R45). -/
def Counters.zero : Counters := ⟨0, 0, 0, 0, 0, 0, 0, 0⟩

/-- An event of `tx_out` (R49). -/
structure TxEvent where
  frame : Bytes
  emitTime : Nat
  deriving DecidableEq, Repr

/-- An event of `deliver_out` (R50). -/
structure DeliverEvent where
  src : Addr
  payload : Bytes
  deriving DecidableEq, Repr

/-- The outcome a feedback signal reports (R51). -/
inductive FeedbackOutcome
  | success
  | failure
  deriving DecidableEq, Repr

/-- An event of `feedback_out` (R51). -/
structure FeedbackEvent where
  dst : Addr
  seq : Seq
  outcome : FeedbackOutcome
  deriving DecidableEq, Repr

/-- The outcome of `FRAME.DECODE` (spec/41_frame_codec.md R155). -/
inductive DecodeOutcome
  | noSync
  | incomplete
  | rejected (n : Nat)
  | frame (f : Frame) (n : Nat)
  deriving DecidableEq, Repr

/-- The outcome of `BFRAME.CHECK` (R168). -/
inductive BOutcome
  | bad
  | good (addr : Nat) (seq : Nat) (chunk : Bits)
  deriving DecidableEq, Repr

/-- The verdict of `SEQ.ACCEPT` (R186). -/
inductive Verdict
  | inOrder
  | notInOrder
  deriving DecidableEq, Repr

/-- The cause of an error (spec/60_exceptions.md R291 to R296). -/
inductive Cause
  /-- `NO_SYNC`, class Noise, with the discard count that R291 records. -/
  | noSync (n : Nat)
  /-- `CRC_MISMATCH`, class Noise, with the discard count that R291 records. -/
  | crcMismatch (n : Nat)
  /-- `ACK_WITH_PAYLOAD`, class ProtocolViolation. -/
  | ackWithPayload
  /-- `UNKNOWN_TYPE`, class ProtocolViolation. -/
  | unknownType
  /-- `RETRY_EXHAUSTED`, class DeliveryFailure, for one message. -/
  | retryExhausted (dst : Addr) (seq : Seq)
  /-- `CFG_n`, class ConfigError: clause n of R252 is the first that fails. -/
  | cfgClause (n : Nat)
  /-- `PAYLOAD_TOO_LONG`, class ConfigError. -/
  | payloadTooLong
  deriving DecidableEq, Repr

/-- The response or result of an operation (R52, R53 and the Result lines of the operation rules). -/
inductive Response
  | nothing
  | ok
  | busy
  | errPayloadTooLong
  | errConfig
  | stats (c : Counters)
  | u16 (v : U16)
  | bool (b : Bool)
  | nat (n : Nat)
  | bits (b : Bits)
  | bytes (b : Bytes)
  | decoded (o : DecodeOutcome)
  | bframe (o : BOutcome)
  | seq (n : Seq)
  | accepted (v : Verdict) (ack : Seq)
  | covered (k : Option Nat)
  | entries (l : List WinEntry)
  | time (e : Nat)
  deriving DecidableEq, Repr

/-- One pending request at the operation-invoke interface (R46, R118): who issues it, the format of its words, and the
words. The model's own: log 1. -/
structure Request where
  issuer : Issuer
  format : Format
  bytes : Bytes
  deriving DecidableEq, Repr

/-- The architectural state of one node (R20) and the model's own fields. -/
structure State where
  /-- `mode` (R21). -/
  mode : Mode
  /-- `CFG` (R22). -/
  cfg : Cfg
  /-- `crc16_table` (R23). -/
  crc16Table : Vector U16 256
  /-- `rx_buf` (R25). -/
  rxBuf : Bytes
  /-- `next_tx_seq` (R26). -/
  nextTxSeq : PeerMap Seq
  /-- `expected_rx_seq` (R27). -/
  expectedRxSeq : PeerMap Seq
  /-- `sw` (R29). -/
  sw : PeerMap SwEntry
  /-- `gbn` (R30). -/
  gbn : PeerMap GbnEntry
  /-- `tx_free_at` (R38). -/
  txFreeAt : Nat
  /-- `clock` (R38). -/
  clock : Nat
  /-- `txq` (R36). -/
  txq : List Message
  /-- `ackq` (R37). -/
  ackq : List AckNote
  /-- `rx_in` (R38). -/
  rxIn : Bytes
  /-- The eight counters (R34). -/
  cnt : Counters
  /-- `tx_out` (R49). -/
  txOut : List TxEvent
  /-- `deliver_out` (R50). -/
  deliverOut : List DeliverEvent
  /-- `feedback_out` (R51). -/
  feedbackOut : List FeedbackEvent
  /-- The response of the latest operation (R52). The model's own: log 5. -/
  result : Response
  /-- The causes of the errors raised so far (R294, R296). The model's own: log 6. -/
  trace : List Cause
  /-- The draws supplied and not yet consumed (R241, R243). The model's own: log 7. -/
  draws : List Draw
  /-- How many draws came from the free-value constants. The model's own: log 7. -/
  drawCount : Nat
  /-- The pending requests, the next one first. The model's own: log 1. -/
  port : List Request
  deriving DecidableEq, Repr

/-- The reasons the machine stops with a fault: there is none. Every error of the CORE is an inline result
(spec/60_exceptions.md R298, R304, R306; log 25). -/
inductive Fault
  deriving DecidableEq, Repr

/-- The reasons a step is refused: spec/93_implementation_defined.md treats each as `refuse`, "the step is not enabled". -/
inductive Refusal
  /-- An instruction the model gives no meaning yet. Raised only by an arm of exec. Safe. -/
  | notModelled (mnemonic : String)
  /-- A host operation in a mode that does not accept it (U14, R305). Raised by the host operations. Safe. -/
  | notAccepted (mode : Mode)
  /-- A profile B operation while `PROFILE_B_ENABLE` is false (U8, R305). Raised by the profile B operations. Safe. -/
  | profileBDisabled
  /-- `TICK` with `now < clock` (U2). Raised by `TICK`. Safe. -/
  | clockBackwards
  /-- `FRAME.ENCODE` asked for an ACK with a payload or for an unknown type (U7). Raised by `FRAME.ENCODE`. Safe. -/
  | illegalFrameRequest
  /-- `BFRAME.ENCODE` with an operand out of range or a chunk of another length (U8). Raised by `BFRAME.ENCODE`. Safe. -/
  | operandOutOfRange
  /-- `SW.START` on an exchange that is not idle (U16). Raised by `SW.START`. Safe. -/
  | exchangeBusy
  /-- `GBN.ADMIT` or `WIN.PUSH` on a full window (U16). Raised by those two. Safe. -/
  | windowFull
  /-- `WIN.SLIDE` by 0 or by more than the window holds (U16, R191). Raised by `WIN.SLIDE`. Safe. -/
  | slideOutOfRange
  /-- An internal operation issued by the host (U14, R305). Raised by the step. Safe. -/
  | internalFromHost
  /-- A request whose words name no operation (U17) or are no instruction. Raised by the step. Safe. -/
  | undecodable (e : DecodeError)
  deriving DecidableEq, Repr

/-- What an operation answers. -/
abbrev Answer := Host.Outcome State Fault Refusal

/-- An idle Stop-and-Wait exchange as reset leaves it: `state` from R45, the rest DESIGN CHOICE (log 9). -/
def SwEntry.reset : SwEntry := ⟨.idle, [], 0, 0, 0⟩

/-- An empty Go-Back-N window as reset leaves it: `window` and `retry` from R45, `deadline` DESIGN CHOICE (log 9). -/
def GbnEntry.reset : GbnEntry := ⟨[], 0, 0⟩

/-- The machine right after reset (R45, R330). -/
def State.reset : State where
  mode := .unconfigured
  cfg := Cfg.unset
  crc16Table := crc16TableConst
  rxBuf := []
  nextTxSeq := Vector.replicate 256 0
  expectedRxSeq := Vector.replicate 256 0
  sw := Vector.replicate 256 SwEntry.reset
  gbn := Vector.replicate 256 GbnEntry.reset
  txFreeAt := 0
  clock := 0
  txq := []
  ackq := []
  rxIn := []
  cnt := Counters.zero
  txOut := []
  deliverOut := []
  feedbackOut := []
  result := .nothing
  trace := []
  draws := []
  drawCount := 0
  port := []

end Sys2Proof.Machine
end

