-- ==== Sys2Proof/Machine/Ops.lean ====
section
/-!
DEFINITION. The named operations over the state: reading and writing the per-peer maps, the three buffer primitives of
spec/00_scope.md R14, the counters, the output channels, raising an error (spec/60_exceptions.md R290 to R294), and
taking the next request from the port.
-/

namespace Sys2Proof.Machine

/-! ### Per-peer maps (R14, R60) -/

/-- `m[k]`. -/
def peerGet {α : Type} (m : PeerMap α) (k : Addr) : α := m[k.toNat]'k.isLt

/-- `m[k] <- v`. -/
def peerSet {α : Type} (m : PeerMap α) (k : Addr) (v : α) : PeerMap α := m.set k.toNat v k.isLt

/-- `S.next_tx_seq[d] <- n`. -/
def State.setNextTxSeq (s : State) (d : Addr) (n : Seq) : State := { s with nextTxSeq := peerSet s.nextTxSeq d n }

/-- `S.expected_rx_seq[d] <- n`. -/
def State.setExpectedRxSeq (s : State) (d : Addr) (n : Seq) : State :=
  { s with expectedRxSeq := peerSet s.expectedRxSeq d n }

/-- `S.sw[d] <- x`. -/
def State.setSw (s : State) (d : Addr) (x : SwEntry) : State := { s with sw := peerSet s.sw d x }

/-- `S.gbn[d] <- x`. -/
def State.setGbn (s : State) (d : Addr) (x : GbnEntry) : State := { s with gbn := peerSet s.gbn d x }

/-! ### Buffers (R14) -/

/-- `MemRead(buf, i, n)`, the bytes i to i+n-1. Every caller keeps `i + n ≤ len(buf)`. -/
def memRead (buf : Bytes) (i n : Nat) : Bytes := (buf.drop i).take n

/-- One byte of a buffer. Every caller keeps `i < len(buf)`. -/
def memByte (buf : Bytes) (i : Nat) : Byte := buf.getD i 0

/-- `MemAppend(buf, bytes)`. -/
def memAppend (buf bytes : Bytes) : Bytes := buf ++ bytes

/-- `MemDrop(buf, n)`. Every caller keeps `n ≤ len(buf)`. -/
def memDrop (buf : Bytes) (n : Nat) : Bytes := buf.drop n

/-- `S.rx_buf <- buf`. -/
def State.setRxBuf (s : State) (buf : Bytes) : State := { s with rxBuf := buf }

/-! ### Counters (R34) -/

/-- The eight counters by name. -/
inductive CounterName
  | txData
  | rxData
  | txAck
  | rxAck
  | retx
  | crcFail
  | winTimeout
  | protoViolation
  deriving DecidableEq, Repr

/-- One counter goes up by one. -/
def Counters.inc (c : Counters) : CounterName → Counters
  | .txData => { c with txData := c.txData + 1 }
  | .rxData => { c with rxData := c.rxData + 1 }
  | .txAck => { c with txAck := c.txAck + 1 }
  | .rxAck => { c with rxAck := c.rxAck + 1 }
  | .retx => { c with retx := c.retx + 1 }
  | .crcFail => { c with crcFail := c.crcFail + 1 }
  | .winTimeout => { c with winTimeout := c.winTimeout + 1 }
  | .protoViolation => { c with protoViolation := c.protoViolation + 1 }

/-- `S.cnt_n <- S.cnt_n + 1`. -/
def State.count (s : State) (n : CounterName) : State := { s with cnt := s.cnt.inc n }

/-! ### Output channels and the response (R49 to R52) -/

/-- `emit tx_out(e)`. -/
def State.emitTx (s : State) (e : TxEvent) : State := { s with txOut := s.txOut ++ [e] }

/-- `emit deliver_out(e)`. -/
def State.emitDeliver (s : State) (e : DeliverEvent) : State := { s with deliverOut := s.deliverOut ++ [e] }

/-- `emit feedback_out(e)`. -/
def State.emitFeedback (s : State) (e : FeedbackEvent) : State := { s with feedbackOut := s.feedbackOut ++ [e] }

/-- The operation answers r (R52). -/
def State.answer (s : State) (r : Response) : State := { s with result := r }

/-! ### Errors (R290 to R297) -/

/-- The code of a cause (R296). -/
def Cause.code : Cause → Nat
  | .noSync _ => 0x10
  | .crcMismatch _ => 0x11
  | .ackWithPayload => 0x20
  | .unknownType => 0x21
  | .retryExhausted _ _ => 0x30
  | .cfgClause n => 0x40 + n
  | .payloadTooLong => 0x4F

/-- The cause is recorded in the model's trace (R294, R296). -/
def State.record (s : State) (c : Cause) : State := { s with trace := s.trace ++ [c] }

/-- The last byte of a buffer, alone, when it holds more than one (R259, R291). -/
def keepLastByte (buf : Bytes) : Bytes :=
  if buf.length > 1 then memRead buf (buf.length - 1) 1 else buf

/-- The discard count of `NO_SYNC`: how many bytes that trimming drops (R291). -/
def discardCount (buf : Bytes) : Nat := buf.length - (keepLastByte buf).length

/-- The entry actions of a cause: R291 for Noise (the count of a CRC mismatch, the trimming of `rx_buf` when there is no
sync word), R292 for ProtocolViolation, R293 for DeliveryFailure, R294 for ConfigError. No mode, mask or control
transfer changes (R304). -/
def entryActions (c : Cause) (s : State) : State :=
  match c with
  | .noSync _ => s.setRxBuf (keepLastByte s.rxBuf)
  | .crcMismatch _ => s.count .crcFail
  | .ackWithPayload => s.count .protoViolation
  | .unknownType => s.count .protoViolation
  | .retryExhausted dst seq => s.emitFeedback ⟨dst, seq, .failure⟩
  | .cfgClause _ => s.answer .errConfig
  | .payloadTooLong => s.answer .errPayloadTooLong

/-- `raise <Class>(info)`: the entry actions of the cause, and its record in the trace. Nothing returns from an error:
there is no handler, and the raising operation goes on from the state this leaves, as the Continuation lines of R291 to
R294 say (R306). -/
def raise (c : Cause) (s : State) : State := (entryActions c s).record c

/-! ### The request port (log 1) -/

/-- The next request, and the state with it taken from the port. -/
def fetch (s : State) : Option (Request × State) :=
  match s.port with
  | [] => none
  | r :: rest => some (r, { s with port := rest })

/-- The request a table row's word makes: in the row's format, issued by whoever may issue what it decodes to. -/
def tableRequest (nbits w : Nat) : Request where
  issuer := match decodeTableWord nbits w with
    | some i => i.kind
    | none => .host
  format := tableFormat nbits
  bytes := tableBytes nbits w

/-- A request stored where the step fetches its next one, in place of what stands there. -/
def placeRequest (s : State) (r : Request) : State := { s with port := r :: s.port.drop 1 }

end Sys2Proof.Machine
end

