-- ==== Sys2Proof/Machine/Operands.lean ====
section
/-!
DEFINITION. Operand forms: the configuration record and its ten validity clauses (spec/46_node_engine.md R252), the
search for a byte pair (spec/00_scope.md R13), the draws of the arbiter (spec/45_aloha_mac.md R241, R243), the scan over
all peer addresses, and which mode accepts a host operation (spec/60_exceptions.md R305).
-/

namespace Sys2Proof.Machine

/-! ### Searching a buffer -/

/-- `find2(buf, S0, S1)`: the least index at which the two bytes stand next to each other (R13). -/
def find2 : Bytes → Byte → Byte → Option Nat
  | a :: b :: rest, s0, s1 =>
    if a = s0 ∧ b = s1 then some 0 else (find2 (b :: rest) s0 s1).map (· + 1)
  | _, _, _ => none

/-- The first sync word in a buffer. A sync word of fewer than two bytes, which only a state before `CONFIG` can hold,
is never found (log 16). -/
def findSync (cfg : Cfg) (buf : Bytes) : Option Nat :=
  match cfg.syncWord with
  | s0 :: s1 :: _ => find2 buf s0 s1
  | _ => none

/-! ### The configuration record (R251, R252) -/

/-- The code of an ARQ mode in a `CONFIG` request (log 15). -/
def arqModeOf (b : Byte) : Option ArqMode := if b = 0 then some .sw else if b = 1 then some .gbn else none

/-- The code of a resynchronisation mode in a `CONFIG` request (log 15). -/
def resyncModeOf (b : Byte) : Option ResyncMode := if b = 0 then some .byte else if b = 1 then some .candidate else none

/-- Clause 8 of R252: the first sync word in preamble and sync word is the sync word itself (R9). -/
def syncAnchored (pre sync : Bytes) : Bool :=
  match sync with
  | [s0, s1] => find2 (pre ++ sync) s0 s1 == some pre.length
  | _ => false

/-- The number of the first clause of R252 that a record fails, if it fails one. -/
def cfgFirstFail (r : CfgRequest) : Option Nat :=
  if r.nodeAddr = broadcast then some 1
  else if (arqModeOf r.arqMode).isNone then some 2
  else if ¬ (1 ≤ r.windowSize ∧ r.windowSize ≤ 127) then some 3
  else if ¬ (1 ≤ r.arqTimeout ∧ 1 ≤ r.pollInterval) then some 4
  else if ¬ r.alohaProb.legal then some 5
  else if ¬ (r.backoffMin ≤ r.backoffMax) then some 6
  else if r.syncWord.length ≠ 2 then some 7
  else if ¬ syncAnchored r.preamble r.syncWord then some 8
  else if ¬ (1 ≤ r.txqCap) then some 9
  else if (resyncModeOf r.resyncMode).isNone then some 10
  else none

/-- The record as `CFG` holds it. The two defaults stand for codes that `cfgFirstFail` has refused. -/
def toCfg (r : CfgRequest) : Cfg where
  nodeAddr := r.nodeAddr
  arqMode := (arqModeOf r.arqMode).getD .sw
  windowSize := r.windowSize
  maxRetries := r.maxRetries
  arqTimeout := r.arqTimeout
  pollInterval := r.pollInterval
  alohaProb := r.alohaProb
  backoffMin := r.backoffMin
  backoffMax := r.backoffMax
  preamble := r.preamble
  syncWord := r.syncWord
  resyncMode := (resyncModeOf r.resyncMode).getD .byte
  txqCap := r.txqCap
  profileBEnable := r.profileBEnable
  chunkBits := r.chunkBits

/-! ### Draws (R241, R243; log 7) -/

/-- The constraint R241 puts on a draw: `ALOHA_PROB = 1` forces `go`, `ALOHA_PROB = 0` forbids it, and a deferral lies
between the two bounds. -/
def drawLegal (cfg : Cfg) (d : Draw) : Bool :=
  (!cfg.alohaProb.isOne || d.go) && (!cfg.alohaProb.isZero || !d.go)
    && (d.go || (decide (cfg.backoffMin ≤ d.delay) && decide (d.delay ≤ cfg.backoffMax)))

/-- The n-th draw that no input supplies: free but for the constraint of R241. -/
def freeDraw (cfg : Cfg) (n : Nat) : Draw where
  go := if cfg.alohaProb.isOne then true else if cfg.alohaProb.isZero then false else Config.freeGo n
  delay := cfg.backoffMin + Config.freeBackoff n % (cfg.backoffMax - cfg.backoffMin + 1)

/-- The next draw: the first supplied pair that is a draw at all, or a free one; with it the pairs left and the number
of free draws taken. -/
def takeDraw (cfg : Cfg) : List Draw → Nat → Draw × List Draw × Nat
  | [], n => (freeDraw cfg n, [], n + 1)
  | d :: ds, n => if drawLegal cfg d then (d, ds, n) else takeDraw cfg ds n

/-- Pairs supplied with an operation stand before those supplied earlier. -/
def State.supplyDraws (s : State) (ds : List Draw) : State := { s with draws := ds ++ s.draws }

/-! ### Addresses and modes -/

/-- The 256 peer addresses in ascending order (R256). -/
def allAddrs : List Addr := (List.range 256).map (BitVec.ofNat 8)

/-- A host operation that only some modes accept (R305): refused in the others. -/
def acceptedIn (modes : List Mode) (s : State) (op : Answer) : Answer :=
  if s.mode ∈ modes then op else .refused (.notAccepted s.mode)

/-- A profile B operation: accepted in RUN and STOPPED when the profile is enabled (R305, U8). -/
def profileBAccepted (s : State) (op : Answer) : Answer :=
  acceptedIn [.run, .stopped] s (if s.cfg.profileBEnable then op else .refused .profileBDisabled)

end Sys2Proof.Machine
end

