-- ==== Sys2Proof/Machine/Flags.lean ====
section
/-!
DEFINITION. The values that play the role of flags (spec/10_state.md R33): `feedback_already_sent` and
`last_of_message` of a window entry, and the emission of a message's one feedback event that they govern
(spec/44_arq_go_back_n.md R224, R226, R228).
-/

namespace Sys2Proof.Machine

/-- A new window entry: `feedback_already_sent` is false (R33, R189). -/
def newWinEntry (seq : Seq) (frame : Bytes) (last : Bool) : WinEntry := ⟨seq, frame, false, last⟩

/-- The entry's feedback is still owed: it is its message's last and none was sent (R224, R226). -/
def WinEntry.owesFeedback (e : WinEntry) : Bool := e.lastOfMessage && !e.feedbackAlreadySent

/-- `ent.feedback_already_sent <- true`. -/
def WinEntry.markSent (e : WinEntry) : WinEntry := { e with feedbackAlreadySent := true }

/-- SUCCESS feedback for removed entries, oldest first (R224). The flag is set in the entry, which has left the window,
so nothing keeps it. -/
def reportDelivered (dst : Addr) : List WinEntry → State → State
  | [], s => s
  | e :: es, s =>
    reportDelivered dst es (if e.owesFeedback then s.emitFeedback ⟨dst, e.markSent.seq, .success⟩ else s)

/-- FAILURE feedback for cleared entries, oldest first: error class DeliveryFailure for each (R226, R293). -/
def reportFailed (dst : Addr) : List WinEntry → State → State
  | [], s => s
  | e :: es, s =>
    reportFailed dst es (if e.owesFeedback then raise (.retryExhausted dst e.markSent.seq) s else s)

/-- The room test of Go-Back-N: fewer entries than `WINDOW_SIZE` (R221, R258). -/
def windowHasRoom (s : State) (d : Addr) : Bool := decide ((peerGet s.gbn d).window.length < s.cfg.windowSize)

/-- The room test of Stop-and-Wait: the exchange is idle (R188, R258). -/
def exchangeIdle (s : State) (d : Addr) : Bool := (peerGet s.sw d).state == .idle

end Sys2Proof.Machine
end

