-- ==== Sys2Proof/Machine/Crc.lean ====
section
/-!
DEFINITION. The CRC Engine (spec/40_crc.md): the table-driven CRC-16 and the serial-division CRC-32, and the meanings of
CRC16.TABLE, CRC16, CRC16.VERIFY, CRC32.REM, CRC32.CHECK and CRC32.GEN.
-/

namespace Sys2Proof.Machine

/-! ### CRC-16 -/

/-- One shift of the division register: the bit shifted out selects the polynomial (R131). -/
def crc16Shift (c : U16) : U16 := if c.msb then (c <<< 1) ^^^ crc16Poly else c <<< 1

/-- Eight shifts. -/
def crc16Shift8 (c : U16) : U16 :=
  crc16Shift (crc16Shift (crc16Shift (crc16Shift (crc16Shift (crc16Shift (crc16Shift (crc16Shift c)))))))

/-- The table entry of a leading byte: the division with the byte in the high half of the register (R131). -/
def crc16Entry (i : Nat) : U16 := crc16Shift8 (BitVec.ofNat 16 i <<< 8)

/-- The table that the loop of R131 writes. -/
def crc16Build : Vector U16 256 := ⟨((List.range 256).map crc16Entry).toArray, by simp⟩

/-- `CRC16.TABLE()` (R131). -/
def State.buildTable (s : State) : State := { s with crc16Table := crc16Build }

/-- One byte of R133: the leading byte of the register, xor the data byte, selects the table entry. -/
def crc16Step (table : Vector U16 256) (crc : U16) (b : Byte) : U16 :=
  (crc <<< 8) ^^^ peerGet table (crc.extractLsb' 8 8 ^^^ b)

/-- `CRC16(bytes)` (R133): no reflection, no final XOR. -/
def crc16Of (table : Vector U16 256) (bytes : Bytes) : U16 := bytes.foldl (crc16Step table) crc16Init

/-- The bit-serial form of R134. -/
def crc16Serial (bytes : Bytes) : U16 :=
  bytes.foldl (fun crc b => crc16Shift8 (crc ^^^ (b ++ (0 : Byte)))) crc16Init

/-! ### CRC-32 -/

/-- The division loop of R137, with fuel: each pass clears the highest set bit. -/
def crc32Loop : Nat → Nat → Nat
  | 0, v => v
  | fuel + 1, v =>
    if 33 ≤ bitlen v then crc32Loop fuel (v ^^^ (crc32Poly <<< (bitlen v - 33))) else v

/-- `CRC32.REM(bits)` (R137): 32 zero bits appended, divided by `P`; the loop runs at most `len(bits)` times. -/
def crc32RemOf (bits : Bits) : Nat := crc32Loop bits.length (bitsVal (bits ++ List.replicate 32 false))

/-- `CRC32.CHECK(bits)` (R139). -/
def crc32CheckOf (bits : Bits) : Bool := crc32RemOf bits == 0

/-- `CRC32.GEN(bits)` (R141). -/
def crc32GenOf (bits : Bits) : Bits := binW 32 (crc32RemOf bits)

/-! ### Meanings -/

/-- `CRC16.TABLE` (R131). -/
def execCrc16Table (s : State) : Answer := .next (s.buildTable.answer .nothing)

/-- `CRC16` (R133). -/
def execCrc16 (bytes : Bytes) (s : State) : Answer := .next (s.answer (.u16 (crc16Of s.crc16Table bytes)))

/-- `CRC16.VERIFY` (R135). -/
def execCrc16Verify (bytes : Bytes) (c : U16) (s : State) : Answer :=
  .next (s.answer (.bool (crc16Of s.crc16Table bytes == c)))

/-- `CRC32.REM` (R137). -/
def execCrc32Rem (bits : Bits) (s : State) : Answer := .next (s.answer (.nat (crc32RemOf bits)))

/-- `CRC32.CHECK` (R139). -/
def execCrc32Check (bits : Bits) (s : State) : Answer := .next (s.answer (.bool (crc32CheckOf bits)))

/-- `CRC32.GEN` (R141). -/
def execCrc32Gen (bits : Bits) (s : State) : Answer := .next (s.answer (.bits (crc32GenOf bits)))

end Sys2Proof.Machine
end

