-- ==== Sys2Proof/Machine/Codec.lean ====
section
/-!
DEFINITION. The Frame Codec (spec/41_frame_codec.md): serialising and scanning profile A frames, serialising and checking
profile B frames, and the meanings of FRAME.ENCODE, FRAME.DECODE, BFRAME.ENCODE and BFRAME.CHECK.
-/

namespace Sys2Proof.Machine

/-! ### Profile A -/

/-- `header ++ payload`, the bytes the CRC covers (R93, R152). -/
def frameBody (src dst seq ty : Byte) (p : Bytes) : Bytes := [src, dst, seq, ty, BitVec.ofNat 8 p.length] ++ p

/-- A 16-bit value as two bytes, high byte first (R62, R100). -/
def crcBytes (c : U16) : Bytes := [c.extractLsb' 8 8, c.extractLsb' 0 8]

/-- The bytes of a frame whose payload fits: preamble, sync word, header, payload, CRC (R91, R152). -/
def frameBytes (cfg : Cfg) (table : Vector U16 256) (src dst seq ty : Byte) (p : Bytes) : Bytes :=
  let body := frameBody src dst seq ty p
  cfg.preamble ++ cfg.syncWord ++ body ++ crcBytes (crc16Of table body)

/-- `FRAME.ENCODE` (R152): no bytes for a payload over 255 (R153). -/
def encodeFrame (s : State) (src dst seq ty : Byte) (p : Bytes) : Option Bytes :=
  if p.length > 255 then none else some (frameBytes s.cfg s.crc16Table src dst seq ty p)

/-- The check of the candidate at sync index i, with its `len` byte L read and all its bytes present (R156). -/
def checkCandidate (cfg : Cfg) (table : Vector U16 256) (buf : Bytes) (i l : Nat) : DecodeOutcome :=
  if crc16Of table (memRead buf (i + 2) (5 + l)) = memByte buf (i + 7 + l) ++ memByte buf (i + 8 + l) then
    .frame ⟨memByte buf (i + 2), memByte buf (i + 3), memByte buf (i + 4), memByte buf (i + 5), memRead buf (i + 7) l⟩
      (i + 9 + l)
  else match cfg.resyncMode with
    | .byte => .rejected (i + 1)
    | .candidate => .rejected (i + 9 + l)

/-- The outcome of `FRAME.DECODE` on a buffer (R155, R156). -/
def decodeOutcome (cfg : Cfg) (table : Vector U16 256) (buf : Bytes) : DecodeOutcome :=
  match findSync cfg buf with
  | none => .noSync
  | some i =>
    if buf.length < i + 9 then .incomplete
    else
      let l := (memByte buf (i + 6)).toNat
      if buf.length < i + 9 + l then .incomplete else checkCandidate cfg table buf i l

/-- The one side effect of `FRAME.DECODE`: a rejected candidate is error class Noise, cause CRC_MISMATCH, and is
counted and recorded with its discard count (R67, R156, R291). -/
def noteOutcome (o : DecodeOutcome) (s : State) : State :=
  match o with
  | .rejected n => raise (.crcMismatch n) s
  | .noSync | .incomplete | .frame _ _ => s

/-- `FRAME.DECODE(buf)` (R156): the outcome and the state it leaves; the buffer is not changed. -/
def decodeFrame (buf : Bytes) (s : State) : DecodeOutcome × State :=
  let o := decodeOutcome s.cfg s.crc16Table buf
  (o, noteOutcome o s)

/-! ### Profile B -/

/-- The bits of a profile B frame (R105, R106, R166). -/
def bframeBits (addr seq : Nat) (chunk : Bits) : Bits :=
  let d := binW 2 addr ++ binW 6 seq ++ chunk
  d ++ crc32GenOf d

/-- The outcome of `BFRAME.CHECK` (R168). -/
def bframeOutcome (chunkBits : Nat) (bits : Bits) : BOutcome :=
  if bits.length ≠ 40 + chunkBits then .bad
  else if !crc32CheckOf bits then .bad
  else .good (bitsVal (bits.take 2)) (bitsVal ((bits.drop 2).take 6)) ((bits.drop 8).take chunkBits)

/-! ### Meanings -/

/-- `FRAME.ENCODE` (R152, R153); the calls of U7 are refused after the length test (log 13). -/
def execFrameEncode (src dst seq ty : Byte) (p : Bytes) (s : State) : Answer :=
  match encodeFrame s src dst seq ty p with
  | none => .next (raise .payloadTooLong s)
  | some b =>
    if ty = typeData ∨ (ty = typeAck ∧ p = []) then .next (s.answer (.bytes b)) else .refused .illegalFrameRequest

/-- `FRAME.DECODE` (R156). -/
def execFrameDecode (buf : Bytes) (s : State) : Answer :=
  .next ((decodeFrame buf s).2.answer (.decoded (decodeFrame buf s).1))

/-- `BFRAME.ENCODE` (R166); operands out of range are refused (U8). -/
def execBframeEncode (addr seq : Nat) (chunk : Bits) (s : State) : Answer :=
  profileBAccepted s
    (if addr ≤ 3 ∧ seq ≤ 63 ∧ chunk.length = s.cfg.chunkBits then .next (s.answer (.bits (bframeBits addr seq chunk)))
      else .refused .operandOutOfRange)

/-- `BFRAME.CHECK` (R168). -/
def execBframeCheck (bits : Bits) (s : State) : Answer :=
  profileBAccepted s (.next (s.answer (.bframe (bframeOutcome s.cfg.chunkBits bits))))

end Sys2Proof.Machine
end

