-- ==== Sys2Proof/Machine/Sequencing.lean ====
section
/-!
DEFINITION. Sequencing and window state (spec/42_sequencing.md): SEQ.ALLOC, SEQ.DIST, SEQ.NEWER, SEQ.ACCEPT, WIN.PUSH,
WIN.COVER, WIN.SLIDE, WIN.CLEAR.
-/

namespace Sys2Proof.Machine

/-- `SEQ.ALLOC(dst)` (R181): the number, and the state with the counter moved on modulo 256. -/
def seqAlloc (dst : Addr) (s : State) : Seq × State :=
  let n := peerGet s.nextTxSeq dst
  (n, s.setNextTxSeq dst (n + 1))

/-- `SEQ.DIST(a, b) = (a - b) mod 256` (R183). -/
def seqDist (a b : Seq) : Seq := a - b

/-- `SEQ.NEWER(a, b)` (R184): the sign test, with distance 128 newer neither way. -/
def seqNewer (a b : Seq) : Bool := decide (1 ≤ (seqDist a b).toNat) && decide ((seqDist a b).toNat ≤ 127)

/-- `SEQ.ACCEPT(src, n)` (R186): the verdict, the number to acknowledge, and the state after. -/
def seqAccept (src : Addr) (n : Seq) (s : State) : Verdict × Seq × State :=
  let e := peerGet s.expectedRxSeq src
  if n = e then (.inOrder, n, s.setExpectedRxSeq src (e + 1)) else (.notInOrder, e - 1, s)

/-- `WIN.PUSH(dst, entry)` (R189). -/
def winPush (dst : Addr) (e : WinEntry) (s : State) : State :=
  let g := peerGet s.gbn dst
  s.setGbn dst { g with window := g.window ++ [e] }

/-- `WIN.COVER` on a window (R190): membership by modular distance from the base. -/
def coverOf (w : List WinEntry) (n : Seq) : Option Nat :=
  match w with
  | [] => none
  | base :: _ => let d := (seqDist n base.seq).toNat; if d < w.length then some (d + 1) else none

/-- `WIN.COVER(dst, n)` (R190). -/
def winCover (dst : Addr) (n : Seq) (s : State) : Option Nat := coverOf (peerGet s.gbn dst).window n

/-- `WIN.SLIDE(dst, k)` (R191): the removed entries, oldest first, and the state after. -/
def winSlide (dst : Addr) (k : Nat) (s : State) : List WinEntry × State :=
  let g := peerGet s.gbn dst
  (g.window.take k, s.setGbn dst { g with window := g.window.drop k })

/-- `WIN.CLEAR(dst)` (R192): the removed entries, oldest first, and the state after. -/
def winClear (dst : Addr) (s : State) : List WinEntry × State :=
  let g := peerGet s.gbn dst
  (g.window, s.setGbn dst { g with window := [] })

/-! ### Meanings -/

/-- `SEQ.ALLOC` (R181). -/
def execSeqAlloc (dst : Addr) (s : State) : Answer := .next ((seqAlloc dst s).2.answer (.seq (seqAlloc dst s).1))

/-- `SEQ.DIST` (R183). -/
def execSeqDist (a b : Seq) (s : State) : Answer := .next (s.answer (.seq (seqDist a b)))

/-- `SEQ.NEWER` (R184). -/
def execSeqNewer (a b : Seq) (s : State) : Answer := .next (s.answer (.bool (seqNewer a b)))

/-- `SEQ.ACCEPT` (R186). -/
def execSeqAccept (src : Addr) (n : Seq) (s : State) : Answer :=
  let r := seqAccept src n s
  .next (r.2.2.answer (.accepted r.1 r.2.1))

/-- `WIN.PUSH` (R189); refused on a full window (U16, log 17). -/
def execWinPush (dst : Addr) (seq : Seq) (frame : Bytes) (last : Bool) (s : State) : Answer :=
  if windowHasRoom s dst then .next ((winPush dst (newWinEntry seq frame last) s).answer .nothing)
  else .refused .windowFull

/-- `WIN.COVER` (R190). -/
def execWinCover (dst : Addr) (n : Seq) (s : State) : Answer := .next (s.answer (.covered (winCover dst n s)))

/-- `WIN.SLIDE` (R191); refused outside `1 ≤ k ≤ len(window)` (U16, log 17). -/
def execWinSlide (dst : Addr) (k : Nat) (s : State) : Answer :=
  if 1 ≤ k ∧ k ≤ (peerGet s.gbn dst).window.length then
    .next ((winSlide dst k s).2.answer (.entries (winSlide dst k s).1))
  else .refused .slideOutOfRange

/-- `WIN.CLEAR` (R192). -/
def execWinClear (dst : Addr) (s : State) : Answer := .next ((winClear dst s).2.answer (.entries (winClear dst s).1))

end Sys2Proof.Machine
end

