-- ==== Sys2Proof/Machine/Mac.lean ====
section
/-!
DEFINITION. The p-persistent ALOHA arbiter (spec/45_aloha_mac.md): MAC.SEND.
-/

namespace Sys2Proof.Machine

/-- The emission time of a request at t under a draw (R241): after earlier requests, at once or deferred. -/
def emissionTime (t freeAt : Nat) (d : Draw) : Nat := max t freeAt + (if d.go then 0 else d.delay)

/-- `MAC.SEND(frame, t)` (R241): the emission time, and the state with the frame handed to the physical layer. -/
def macSend (frame : Bytes) (t : Nat) (s : State) : Nat × State :=
  let r := takeDraw s.cfg s.draws s.drawCount
  let e := emissionTime t s.txFreeAt r.1
  (e, { s with txFreeAt := e, draws := r.2.1, drawCount := r.2.2 }.emitTx ⟨frame, e⟩)

/-- `MAC.SEND` (R241), its own draw first. -/
def execMacSend (frame : Bytes) (t : Nat) (free : Draw) (s : State) : Answer :=
  let r := macSend frame t (s.supplyDraws [free])
  .next (r.2.answer (.time r.1))

end Sys2Proof.Machine
end

