-- ==== Sys2Proof/Machine/StopAndWait.lean ====
section
/-!
DEFINITION. The Stop-and-Wait engine (spec/43_arq_stop_and_wait.md): SW.START, SW.ACK, SW.TIMEOUT.
-/

namespace Sys2Proof.Machine

/-- `SW.START(dst, payload)` (R201). A payload over 255 bytes, which no caller passes, is the ConfigError of
`FRAME.ENCODE` and has no other effect (R294; log 14). -/
def swStart (dst : Addr) (p : Bytes) (s : State) : State :=
  let a := seqAlloc dst s
  match encodeFrame a.2 s.cfg.nodeAddr dst a.1 typeData p with
  | none => raise .payloadTooLong s
  | some frame =>
    let m := macSend frame s.clock a.2
    (m.2.count .txData).setSw dst ⟨.awaitAck, frame, a.1, 0, m.1 + s.cfg.arqTimeout⟩

/-- `SW.ACK(src, n)` (R203). -/
def swAck (src : Addr) (n : Seq) (s : State) : State :=
  let x := peerGet s.sw src
  if x.state = .awaitAck ∧ x.seq = n then
    (s.emitFeedback ⟨src, n, .success⟩).setSw src { x with state := .idle }
  else s

/-- `SW.TIMEOUT(dst)` (R205). -/
def swTimeout (dst : Addr) (s : State) : State :=
  let x := peerGet s.sw dst
  if x.state ≠ .awaitAck ∨ s.clock < x.deadline then s
  else
    let s1 := s.count .winTimeout
    if x.retry < s.cfg.maxRetries then
      let m := macSend x.frame s.clock s1
      ((m.2.count .txData).count .retx).setSw dst
        { x with retry := x.retry + 1, deadline := m.1 + s.cfg.arqTimeout }
    else (raise (.retryExhausted dst x.seq) s1).setSw dst { x with state := .idle }

/-! ### Meanings -/

/-- `SW.START` (R201); refused on an exchange that is not idle (U16). -/
def execSwStart (dst : Addr) (p : Bytes) (s : State) : Answer :=
  if exchangeIdle s dst then .next (swStart dst p (s.answer .nothing)) else .refused .exchangeBusy

/-- `SW.ACK` (R203). -/
def execSwAck (src : Addr) (n : Seq) (s : State) : Answer := .next (swAck src n (s.answer .nothing))

/-- `SW.TIMEOUT` (R205). -/
def execSwTimeout (dst : Addr) (s : State) : Answer := .next (swTimeout dst (s.answer .nothing))

end Sys2Proof.Machine
end

