-- ==== Sys2Proof/Machine/GoBackN.lean ====
section
/-!
DEFINITION. The Go-Back-N engine (spec/44_arq_go_back_n.md): GBN.ADMIT, GBN.ACK, GBN.TIMEOUT.
-/

namespace Sys2Proof.Machine

/-- The timer and retry count of a destination's window (R30). -/
def setGbnTimer (dst : Addr) (retry : Nat) (deadline : Nat) (s : State) : State :=
  s.setGbn dst { peerGet s.gbn dst with retry := retry, deadline := deadline }

/-- `GBN.ADMIT(dst, payload)` (R221): one message is one frame and the last of its message (R228). A payload over 255
bytes, which no caller passes, is the ConfigError of `FRAME.ENCODE` and has no other effect (R294; log 14). -/
def gbnAdmit (dst : Addr) (p : Bytes) (s : State) : State :=
  let a := seqAlloc dst s
  match encodeFrame a.2 s.cfg.nodeAddr dst a.1 typeData p with
  | none => raise .payloadTooLong s
  | some frame =>
    let m := macSend frame s.clock a.2
    let s1 := winPush dst (newWinEntry a.1 frame true) (m.2.count .txData)
    if (peerGet s.gbn dst).window = [] then setGbnTimer dst 0 (m.1 + s.cfg.arqTimeout) s1 else s1

/-- `GBN.ACK(src, n)` (R224); an ACK that covers nothing changes nothing (R225). -/
def gbnAck (src : Addr) (n : Seq) (s : State) : State :=
  match winCover src n s with
  | none => s
  | some k =>
    let r := winSlide src k s
    let s1 := reportDelivered src r.1 r.2
    if (peerGet s1.gbn src).window ≠ [] then setGbnTimer src 0 (s.clock + s.cfg.arqTimeout) s1 else s1

/-- Every entry's frame re-sent, oldest first (R226): the emission time of the last one, and the state after. -/
def resendAll : List WinEntry → Nat → State → Nat × State
  | [], e, s => (e, s)
  | ent :: es, _, s =>
    let m := macSend ent.frame s.clock s
    resendAll es m.1 ((m.2.count .txData).count .retx)

/-- `GBN.TIMEOUT(dst)` (R226). -/
def gbnTimeout (dst : Addr) (s : State) : State :=
  let g := peerGet s.gbn dst
  if g.window = [] ∨ s.clock < g.deadline then s
  else
    let s1 := s.count .winTimeout
    if g.retry + 1 ≤ s.cfg.maxRetries then
      let r := resendAll g.window s.clock s1
      setGbnTimer dst (g.retry + 1) (r.1 + s.cfg.arqTimeout) r.2
    else
      let c := winClear dst s1
      let s2 := reportFailed dst c.1 c.2
      s2.setGbn dst { peerGet s2.gbn dst with retry := 0 }

/-! ### Meanings -/

/-- `GBN.ADMIT` (R221); refused on a full window (U16). -/
def execGbnAdmit (dst : Addr) (p : Bytes) (s : State) : Answer :=
  if windowHasRoom s dst then .next (gbnAdmit dst p (s.answer .nothing)) else .refused .windowFull

/-- `GBN.ACK` (R224). -/
def execGbnAck (src : Addr) (n : Seq) (s : State) : Answer := .next (gbnAck src n (s.answer .nothing))

/-- `GBN.TIMEOUT` (R226). -/
def execGbnTimeout (dst : Addr) (s : State) : Answer := .next (gbnTimeout dst (s.answer .nothing))

end Sys2Proof.Machine
end

