-- ==== Sys2Proof/Machine/Node.lean ====
section
/-!
DEFINITION. The Node Engine's internal operations (spec/46_node_engine.md): the four tick phases NODE.ACKS, NODE.TIMERS,
NODE.ADMIT, NODE.RX, and the receive path NODE.RX_FRAME, NODE.RX_DATA.
-/

namespace Sys2Proof.Machine

/-! ### Phase (a) -/

/-- One pending ACK handed to the engine of its source (R255). -/
def ackOne (a : AckNote) (s : State) : State :=
  match s.cfg.arqMode with
  | .sw => swAck a.src a.seq s
  | .gbn => gbnAck a.src a.seq s

/-- The loop of R255 over the queue, head first; no ACK rule adds to the queue. -/
def drainAcks : List AckNote → State → State
  | [], s => s
  | a :: rest, s => drainAcks rest (ackOne a { s with ackq := rest })

/-- `NODE.ACKS()` (R255). -/
def nodeAcks (s : State) : State := drainAcks s.ackq s

/-! ### Phase (b) -/

/-- One destination's timer examined (R256). -/
def timerOne (s : State) (k : Addr) : State :=
  match s.cfg.arqMode with
  | .sw => swTimeout k s
  | .gbn => gbnTimeout k s

/-- `NODE.TIMERS()` (R256): every destination once, in ascending order. -/
def nodeTimers (s : State) : State := allAddrs.foldl timerOne s

/-! ### Phase (c) -/

/-- The destination has room for a message (R258). -/
def hasRoom (s : State) (d : Addr) : Bool :=
  match s.cfg.arqMode with
  | .sw => exchangeIdle s d
  | .gbn => windowHasRoom s d

/-- One message admitted (R258). -/
def admitOne (m : Message) (s : State) : State :=
  match s.cfg.arqMode with
  | .sw => swStart m.dst m.payload s
  | .gbn => gbnAdmit m.dst m.payload s

/-- The loop of R258 over the queue, head first, stopping at the first message without room; no admission adds to the
queue. -/
def admitLoop : List Message → State → State
  | [], s => s
  | m :: rest, s => if hasRoom s m.dst then admitLoop rest (admitOne m { s with txq := rest }) else s

/-- `NODE.ADMIT()` (R258). -/
def nodeAdmit (s : State) : State := admitLoop s.txq s

/-! ### Phase (d) -/

/-- `NODE.RX_DATA(f)` (R264): count, classify, deliver if in order, acknowledge in any case. Its only caller passes DATA
frames for this node; the frame is not tested again, so a direct call with another frame is processed as DATA (log 29),
a payload over 255 bytes, which R151's record excludes, included (log 30). DESIGN CHOICE, unsafe. -/
def nodeRxData (f : Frame) (s : State) : State :=
  let r := seqAccept f.src f.seq (s.count .rxData)
  let s1 := match r.1 with
    | .inOrder => r.2.2.emitDeliver ⟨f.src, f.payload⟩
    | .notInOrder => r.2.2
  let a := frameBytes s1.cfg s1.crc16Table s1.cfg.nodeAddr f.src r.2.1 typeAck []
  (macSend a s1.clock s1).2.count .txAck

/-- `NODE.RX_FRAME(f)` (R263): the address filter first, then the type. The decoder yields frames of R151 only, with at
most 255 payload bytes; a direct call with a longer payload is routed like any other. DESIGN CHOICE, unsafe: log 30. -/
def nodeRxFrame (f : Frame) (s : State) : State :=
  if f.dst ≠ s.cfg.nodeAddr ∧ f.dst ≠ broadcast then s
  else if f.ty = typeData then nodeRxData f s
  else if f.ty = typeAck then
    if f.payload ≠ [] then raise .ackWithPayload s
    else { s.count .rxAck with ackq := s.ackq ++ [⟨f.src, f.seq⟩] }
  else raise .unknownType s

/-- The loop of R259, with fuel: each pass exits or shortens the buffer (R261). -/
def rxLoop : Nat → State → State
  | 0, s => s
  | fuel + 1, s =>
    let r := decodeFrame s.rxBuf s
    match r.1 with
    | .noSync => raise (.noSync (discardCount s.rxBuf)) r.2
    | .incomplete => r.2
    | .rejected n => rxLoop fuel (r.2.setRxBuf (memDrop s.rxBuf n))
    | .frame f n => rxLoop fuel (nodeRxFrame f (r.2.setRxBuf (memDrop s.rxBuf n)))

/-- `NODE.RX()` (R259): the loop ends after at most `len(rx_buf)` passes (R261), so one more than that is fuel enough. -/
def nodeRx (s : State) : State :=
  let buf := memAppend s.rxBuf s.rxIn
  rxLoop (buf.length + 1) { s with rxBuf := buf, rxIn := [] }

/-! ### Meanings -/

/-- `NODE.ACKS` (R255). -/
def execNodeAcks (s : State) : Answer := .next (nodeAcks (s.answer .nothing))

/-- `NODE.TIMERS` (R256). -/
def execNodeTimers (s : State) : Answer := .next (nodeTimers (s.answer .nothing))

/-- `NODE.ADMIT` (R258). -/
def execNodeAdmit (s : State) : Answer := .next ((nodeAdmit s).answer .nothing)

/-- `NODE.RX` (R259). -/
def execNodeRx (s : State) : Answer := .next (nodeRx (s.answer .nothing))

/-- `NODE.RX_FRAME` (R263); run alone it routes a frame with more than 255 payload bytes like any other (log 30). -/
def execNodeRxFrame (f : Frame) (s : State) : Answer := .next (nodeRxFrame f (s.answer .nothing))

/-- `NODE.RX_DATA` (R264); run alone it processes any frame as DATA, whatever its type and address (log 29)
and the length of its payload (log 30). -/
def execNodeRxData (f : Frame) (s : State) : Answer := .next (nodeRxData f (s.answer .nothing))

end Sys2Proof.Machine
end

