-- ==== Sys2Proof/Machine/HostOps.lean ====
section
/-!
DEFINITION. The host operations (spec/46_node_engine.md, spec/10_state.md R53): RESET, CONFIG, SUBMIT, RX_BYTES, TICK,
SHUTDOWN, STATS.READ, each in the modes of spec/60_exceptions.md R305.
-/

namespace Sys2Proof.Machine

/-- Every field of the spec at its reset value (R45, R250); the model's own port, draws and trace are not the node's
and stay (log 23). -/
def State.toReset (s : State) : State :=
  { State.reset with port := s.port, draws := s.draws, drawCount := s.drawCount, trace := s.trace }

/-- The exchange returned to idle, its other fields as they are (R262). -/
def SwEntry.toIdle (x : SwEntry) : SwEntry := { x with state := .idle }

/-- The window emptied and its retry count cleared (R262). -/
def GbnEntry.toIdle (g : GbnEntry) : GbnEntry := { g with window := [], retry := 0 }

/-- The effects of `SHUTDOWN` (R262). -/
def State.toStopped (s : State) : State :=
  { s with
    sw := s.sw.map SwEntry.toIdle
    gbn := s.gbn.map GbnEntry.toIdle
    txq := []
    ackq := []
    rxIn := []
    rxBuf := []
    mode := .stopped }

/-- The four phases of a tick, in order (R254). -/
def tickPhases (s : State) : State := nodeRx (nodeAdmit (nodeTimers (nodeAcks s)))

/-! ### Meanings -/

/-- `RESET` (R250): accepted in every mode. -/
def execReset (s : State) : Answer := .next { s.toReset.buildTable with mode := .unconfigured }

/-- `CONFIG` (R251): the first failing clause of R252 names the cause. -/
def execConfig (r : CfgRequest) (s : State) : Answer :=
  acceptedIn [.unconfigured] s
    (match cfgFirstFail r with
      | some n => .next (raise (.cfgClause n) s)
      | none => .next ({ s with cfg := toCfg r, mode := .run }.answer .ok))

/-- `SUBMIT` (R253): the length test comes before the capacity test. -/
def execSubmit (dst : Addr) (p : Bytes) (s : State) : Answer :=
  acceptedIn [.run] s
    (if p.length > 255 then .next (raise .payloadTooLong s)
      else if s.txq.length ≥ s.cfg.txqCap then .next (s.answer .busy)
      else .next ({ s with txq := s.txq ++ [Message.mk dst p] }.answer .ok))

/-- `RX_BYTES` (R260). -/
def execRxBytes (bytes : Bytes) (s : State) : Answer :=
  acceptedIn [.run] s (.next ({ s with rxIn := memAppend s.rxIn bytes }.answer .nothing))

/-- `TICK` (R254); a clock running backwards is refused (U2). -/
def execTick (now : Nat) (free : List Draw) (s : State) : Answer :=
  acceptedIn [.run] s
    (if now < s.clock then .refused .clockBackwards
      else .next ((tickPhases { s.supplyDraws free with clock := now }).answer .nothing))

/-- `SHUTDOWN` (R262): in STOPPED it is accepted and changes nothing. -/
def execShutdown (s : State) : Answer :=
  acceptedIn [.run, .stopped] s
    (.next ((if s.mode = .run then s.toStopped else s).answer .nothing))

/-- `STATS.READ` (R53). -/
def execStatsRead (s : State) : Answer := acceptedIn [.run, .stopped] s (.next (s.answer (.stats s.cnt)))

end Sys2Proof.Machine
end

