-- ==== Sys2Proof/Machine/Wire.lean ====
section
/-!
DEFINITION. The wire patterns of spec/opcode_table.json: what a frame of each class does when it reaches the node
(spec/30_encoding.md R103; log 22). A profile A frame has passed the CRC gate of FRAME.DECODE and is routed by the rules
of spec/46_node_engine.md R263 and R264; a profile B bit string is checked by spec/41_frame_codec.md R168.
An ill-formed term, which no words decode to, is routed by the fields it has (log 30).
-/

namespace Sys2Proof.Machine

/-- `DATA` (R264, after the address filter of R263). -/
def execData (src dst : Addr) (seq : Seq) (p : Bytes) (s : State) : Answer :=
  .next (nodeRxFrame ⟨src, dst, seq, typeData, p⟩ (s.answer .nothing))

/-- `ACK` (R263). -/
def execAck (src dst : Addr) (seq : Seq) (s : State) : Answer :=
  .next (nodeRxFrame ⟨src, dst, seq, typeAck, []⟩ (s.answer .nothing))

/-- `ACK_WITH_PAYLOAD` (R263, R292). -/
def execAckWithPayload (src dst : Addr) (seq : Seq) (p : Bytes) (s : State) : Answer :=
  .next (nodeRxFrame ⟨src, dst, seq, typeAck, p⟩ (s.answer .nothing))

/-- `UNKNOWN_TYPE` (R263, R292). -/
def execUnknownType (src dst : Addr) (seq : Seq) (ty : Byte) (p : Bytes) (s : State) : Answer :=
  .next (nodeRxFrame ⟨src, dst, seq, ty, p⟩ (s.answer .nothing))

/-- The bit string of a profile B frame with the given fields (R105). -/
def bframeFieldBits (addr : BitVec 2) (seq : BitVec 6) (chunk : Bits) (crc : U32) : Bits :=
  binW 2 addr.toNat ++ binW 6 seq.toNat ++ chunk ++ binW 32 crc.toNat

/-- `BFRAME` (R105, R168). -/
def execBframe (addr : BitVec 2) (seq : BitVec 6) (chunk : Bits) (crc : U32) (s : State) : Answer :=
  profileBAccepted s (.next (s.answer (.bframe (bframeOutcome s.cfg.chunkBits (bframeFieldBits addr seq chunk crc)))))

end Sys2Proof.Machine
end

