-- ==== Sys2Proof/Machine/Dispatch.lean ====
section
/-!
DEFINITION. The dispatch: one arm per constructor of Instr, in the order of spec/opcode_table.json, each a direct call of
that instruction's meaning.
-/

namespace Sys2Proof.Machine

/-- One operation, or one frame reaching the node, applied to the state. -/
def exec (i : Instr) (s : State) : Host.Outcome State Fault Refusal :=
  match i with
  | .reset => Sys2Proof.Machine.execReset s
  | .config r => Sys2Proof.Machine.execConfig r s
  | .submit dst payload => Sys2Proof.Machine.execSubmit dst payload s
  | .rxBytes bytes => Sys2Proof.Machine.execRxBytes bytes s
  | .tick now free => Sys2Proof.Machine.execTick now free s
  | .shutdown => Sys2Proof.Machine.execShutdown s
  | .statsRead => Sys2Proof.Machine.execStatsRead s
  | .crc16Table => Sys2Proof.Machine.execCrc16Table s
  | .crc16 bytes => Sys2Proof.Machine.execCrc16 bytes s
  | .crc16Verify bytes c => Sys2Proof.Machine.execCrc16Verify bytes c s
  | .crc32Rem bits => Sys2Proof.Machine.execCrc32Rem bits s
  | .crc32Check bits => Sys2Proof.Machine.execCrc32Check bits s
  | .crc32Gen bits => Sys2Proof.Machine.execCrc32Gen bits s
  | .frameEncode src dst seq ty payload => Sys2Proof.Machine.execFrameEncode src dst seq ty payload s
  | .frameDecode buf => Sys2Proof.Machine.execFrameDecode buf s
  | .bframeEncode addr seq chunk => Sys2Proof.Machine.execBframeEncode addr seq chunk s
  | .bframeCheck bits => Sys2Proof.Machine.execBframeCheck bits s
  | .seqAlloc dst => Sys2Proof.Machine.execSeqAlloc dst s
  | .seqDist a b => Sys2Proof.Machine.execSeqDist a b s
  | .seqNewer a b => Sys2Proof.Machine.execSeqNewer a b s
  | .seqAccept src n => Sys2Proof.Machine.execSeqAccept src n s
  | .winPush dst seq frame lastOfMessage => Sys2Proof.Machine.execWinPush dst seq frame lastOfMessage s
  | .winCover dst n => Sys2Proof.Machine.execWinCover dst n s
  | .winSlide dst k => Sys2Proof.Machine.execWinSlide dst k s
  | .winClear dst => Sys2Proof.Machine.execWinClear dst s
  | .swStart dst payload => Sys2Proof.Machine.execSwStart dst payload s
  | .swAck src n => Sys2Proof.Machine.execSwAck src n s
  | .swTimeout dst => Sys2Proof.Machine.execSwTimeout dst s
  | .gbnAdmit dst payload => Sys2Proof.Machine.execGbnAdmit dst payload s
  | .gbnAck src n => Sys2Proof.Machine.execGbnAck src n s
  | .gbnTimeout dst => Sys2Proof.Machine.execGbnTimeout dst s
  | .macSend frame t free => Sys2Proof.Machine.execMacSend frame t free s
  | .nodeAcks => Sys2Proof.Machine.execNodeAcks s
  | .nodeTimers => Sys2Proof.Machine.execNodeTimers s
  | .nodeAdmit => Sys2Proof.Machine.execNodeAdmit s
  | .nodeRx => Sys2Proof.Machine.execNodeRx s
  | .nodeRxFrame f => Sys2Proof.Machine.execNodeRxFrame f s
  | .nodeRxData f => Sys2Proof.Machine.execNodeRxData f s
  | .data src dst seq payload => Sys2Proof.Machine.execData src dst seq payload s
  | .ack src dst seq => Sys2Proof.Machine.execAck src dst seq s
  | .ackWithPayload src dst seq payload => Sys2Proof.Machine.execAckWithPayload src dst seq payload s
  | .unknownType src dst seq ty payload => Sys2Proof.Machine.execUnknownType src dst seq ty payload s
  | .bframe addr seq chunk crc => Sys2Proof.Machine.execBframe addr seq chunk crc s

end Sys2Proof.Machine
end

