-- ==== Sys2Proof/Machine/Step.lean ====
section
/-!
DEFINITION. The step: the next request of the port is decoded and run (spec/46_node_engine.md R265; log 1). With no
request pending nothing happens (R265, spec/60_exceptions.md R319).
-/

namespace Sys2Proof.Machine

/-- One step. A request whose words are no instruction is refused (U17), and an internal operation is refused from the
host (U14). -/
def step (s : State) : Host.Outcome State Fault Refusal :=
  match fetch s with
  | none => .next s
  | some (r, s') =>
    match decode r.format r.bytes with
    | .error e => .refused (.undecodable e)
    | .ok i => if r.issuer = .host ∧ i.kind = .core then .refused .internalFromHost else exec i s'

/-- The state with a table row's word as its next request. -/
def State.withFetchWord (s : State) (nbits w : Nat) : State := placeRequest s (tableRequest nbits w)

end Sys2Proof.Machine
end

