-- ==== Sys2Proof/Safety.lean ====
section
/-!
DEFINITION. What counts as a safe state of the node, in the terms the statements use: a latched configuration that
passed spec/46_node_engine.md R252, windows as spec/10_state.md R31 has them, retry budgets kept, emission times in order
(spec/45_aloha_mac.md R242), a settled receive buffer (R261), bounded queues (R36), nothing pending outside RUN, and
only the host at the request port (spec/60_exceptions.md R305). Before it stand the terms of the statements: how a word
selects an operation, where a sync word stands, when a frame goes out, what a division is, which clause a record meets,
which instructions receive and send.
-/

namespace Sys2Proof.Machine

/-! ### The terms of the statements -/

/-- The words of an operation begin with this select code (spec/30_encoding.md R118). -/
def SelectedBy (i : Instr) (code : Byte) : Prop := (encode i).1 = .op ∧ (encode i).2.head? = some code

/-- The two sync bytes stand next to each other at index j (spec/00_scope.md R13). -/
def SyncAt (buf : Bytes) (s0 s1 : Byte) (j : Nat) : Prop := buf[j]? = some s0 ∧ buf[j + 1]? = some s1

/-- The least index at which the sync bytes stand (R13). -/
def FirstSyncAt (buf : Bytes) (s0 s1 : Byte) (i : Nat) : Prop :=
  SyncAt buf s0 s1 i ∧ ∀ j, j < i → ¬ SyncAt buf s0 s1 j

/-- The constraint of R9: the first sync word of preamble and sync word is the sync word itself. -/
def SyncAnchored (c : Cfg) : Prop :=
  ∃ s0 s1, c.syncWord = [s0, s1] ∧ FirstSyncAt (c.preamble ++ c.syncWord) s0 s1 c.preamble.length

/-- One shift of the bit-serial CRC-16 (spec/40_crc.md R131, R134). -/
def serialShift (c : U16) : U16 := if c.getLsbD 15 then (c <<< 1) ^^^ 0x1021 else c <<< 1

/-- The division of R137, pass by pass: n passes take v to r. -/
inductive Crc32Reduces : Nat → Nat → Nat → Prop
  /-- Below the polynomial's bit length nothing is left to do. -/
  | done (v : Nat) : bitlen v < 33 → Crc32Reduces 0 v v
  /-- The polynomial, aligned with the highest set bit, is taken off. -/
  | pass (n v r : Nat) : 33 ≤ bitlen v → Crc32Reduces n (v ^^^ (0x104C11DB7 <<< (bitlen v - 33))) r →
      Crc32Reduces (n + 1) v r

/-- A multiple of the CRC-32 generator over GF(2): a sum of shifted copies of it (R138). -/
inductive Crc32Multiple : Nat → Prop
  | zero : Crc32Multiple 0
  | add (v k : Nat) : Crc32Multiple v → Crc32Multiple (v ^^^ (0x104C11DB7 <<< k))

/-- A frame requested at time t may go out at time e when the transmitter is free at `freeAt`: the draw `go` and the
deferral d of spec/45_aloha_mac.md R241 allow it. -/
def EmittedAt (c : Cfg) (t freeAt e : Nat) : Prop :=
  ∃ (go : Bool) (d : Nat), (c.alohaProb.isOne = true → go = true) ∧ (c.alohaProb.isZero = true → go = false) ∧
    c.backoffMin ≤ d ∧ d ≤ c.backoffMax ∧ e = max t freeAt + (if go then 0 else d)

/-- Frames requested one after the other, all at time t, may go out at these times (R241, R242). -/
def EmittedInTurn (c : Cfg) (t : Nat) : Nat → List Nat → Prop
  | _, [] => True
  | freeAt, e :: es => EmittedAt c t freeAt e ∧ EmittedInTurn c t e es

/-- What an operation may do to the draws: pairs are consumed from the front, and free draws only counted (R243). -/
def DrawsConsumed (s : State) (ds : List Draw) (n : Nat) : Prop := ds <:+ s.draws ∧ s.drawCount ≤ n

/-- Clause n of spec/46_node_engine.md R252 on a record as it is handed to `CONFIG`. -/
def CfgClause (r : CfgRequest) : Nat → Prop
  | 1 => r.nodeAddr ≠ 0xFF
  | 2 => r.arqMode = 0 ∨ r.arqMode = 1
  | 3 => 1 ≤ r.windowSize ∧ r.windowSize ≤ 127
  | 4 => 1 ≤ r.arqTimeout ∧ 1 ≤ r.pollInterval
  | 5 => r.alohaProb.den ≠ 0 ∧ r.alohaProb.num ≤ r.alohaProb.den
  | 6 => r.backoffMin ≤ r.backoffMax
  | 7 => r.syncWord.length = 2
  | 8 => ∀ s0 s1, r.syncWord = [s0, s1] → FirstSyncAt (r.preamble ++ r.syncWord) s0 s1 r.preamble.length
  | 9 => 1 ≤ r.txqCap
  | 10 => r.resyncMode = 0 ∨ r.resyncMode = 1
  | _ => True

/-- A timeout operation run n times, each time at a clock that has reached the deadline (spec/60_exceptions.md R312). -/
inductive Expiries (op : Instr) (deadline : State → Nat) : Nat → State → State → Prop
  /-- No expiry yet. -/
  | none (s : State) : Expiries op deadline 0 s s
  /-- One expiry, and then the others. -/
  | expiry (n : Nat) (s s' t : State) (now : Nat) : deadline s ≤ now → exec op { s with clock := now } = .next s' →
      Expiries op deadline n s' t → Expiries op deadline (n + 1) s t

/-- `MAC.SEND` run k times with the same request time (R244). -/
inductive SendsAt (now : Nat) : Nat → State → State → Prop
  /-- No call yet. -/
  | none (s : State) : SendsAt now 0 s s
  /-- One call, and then the others. -/
  | send (k : Nat) (s s' t : State) (frame : Bytes) (d : Draw) : exec (.macSend frame now d) s = .next s' →
      SendsAt now k s' t → SendsAt now (k + 1) s t

/-- A `TICK`. -/
def IsTick (i : Instr) : Prop := ∃ now free, i = .tick now free

/-- `NODE.RX_DATA`, or an instruction on whose way it lies inside the receive phase (R259, R263; log 22). -/
def ReceivesData (i : Instr) : Prop :=
  i = .nodeRx ∨ (∃ f, i = .nodeRxFrame f) ∨ (∃ f, i = .nodeRxData f) ∨ (∃ a b n p, i = .data a b n p) ∨
    ∃ a b n p, i = .unknownType a b n 0x01 p

/-- `NODE.RX_FRAME` of an ACK, or an instruction on whose way it lies inside the receive phase (R259, R263; log 22). -/
def ReceivesAck (i : Instr) : Prop :=
  i = .nodeRx ∨ (∃ f, i = .nodeRxFrame f) ∨ (∃ a b n, i = .ack a b n) ∨ (∃ a b n, i = .ackWithPayload a b n []) ∨
    ∃ a b n, i = .unknownType a b n 0x02 []

/-- `MAC.SEND`, or an operation that calls it inside its phase (R201, R205, R221, R226, R264). -/
def SendsFrames (i : Instr) : Prop :=
  (∃ f n d, i = .macSend f n d) ∨ (∃ d p, i = .swStart d p) ∨ (∃ d, i = .swTimeout d) ∨ (∃ d p, i = .gbnAdmit d p) ∨
    (∃ d, i = .gbnTimeout d) ∨ i = .nodeTimers ∨ i = .nodeAdmit ∨ ReceivesData i

/-! ### Safe states -/

/-- The clauses of R252, on a latched configuration. -/
structure CfgValid (c : Cfg) : Prop where
  addr : c.nodeAddr ≠ broadcast
  window : 1 ≤ c.windowSize ∧ c.windowSize ≤ 127
  timers : 1 ≤ c.arqTimeout ∧ 1 ≤ c.pollInterval
  prob : c.alohaProb.legal = true
  backoff : c.backoffMin ≤ c.backoffMax
  sync : syncAnchored c.preamble c.syncWord = true
  queue : 1 ≤ c.txqCap

/-- R31: numbers contiguous from the base, modulo 256. -/
def Contiguous (w : List WinEntry) : Prop :=
  ∀ base ∈ w.head?, ∀ k (h : k < w.length), (w[k]).seq = base.seq + BitVec.ofNat 8 k

/-- The newest entry carries the number before the next one to be allocated (R181, R189). -/
def EndsAt (w : List WinEntry) (next : Seq) : Prop := ∀ e ∈ w.getLast?, e.seq + 1 = next

/-- The ARQ instance of a destination rests: idle exchange, empty window (R29, R30). -/
def AtRest (s : State) (d : Addr) : Prop := (peerGet s.sw d).state = .idle ∧ (peerGet s.gbn d).window = []

/-- Nothing is queued, buffered or outstanding (R45, R262). -/
structure Quiet (s : State) : Prop where
  txq : s.txq = []
  ackq : s.ackq = []
  rxIn : s.rxIn = []
  rxBuf : s.rxBuf = []
  rest : ∀ d, AtRest s d

/-- What a Stop-and-Wait exchange keeps (R29, R205). -/
structure SwKept (c : Cfg) (x : SwEntry) : Prop where
  mode : x.state = .awaitAck → c.arqMode = .sw
  budget : x.state = .awaitAck → x.retry ≤ c.maxRetries

/-- What a Go-Back-N window keeps (R30, R31, R226, R228). -/
structure GbnKept (c : Cfg) (next : Seq) (g : GbnEntry) : Prop where
  mode : g.window ≠ [] → c.arqMode = .gbn
  budget : g.window ≠ [] → g.retry ≤ c.maxRetries
  bound : g.window.length ≤ c.windowSize
  contiguous : Contiguous g.window
  newest : EndsAt g.window next
  owing : ∀ e ∈ g.window, e.feedbackAlreadySent = false ∧ e.lastOfMessage = true

/-- Emission times never go back along `tx_out`, and none lies beyond `tx_free_at` (R242). -/
structure EmissionsInOrder (s : State) : Prop where
  sorted : (s.txOut.map TxEvent.emitTime).Pairwise (· ≤ ·)
  bound : ∀ e ∈ s.txOut, e.emitTime ≤ s.txFreeAt

/-- The receive buffer holds no frame and no rejection still to be found (R64, R261). -/
def Settled (s : State) : Prop :=
  (decodeOutcome s.cfg s.crc16Table s.rxBuf = .noSync ∧ s.rxBuf.length ≤ 1) ∨
    decodeOutcome s.cfg s.crc16Table s.rxBuf = .incomplete

/-- A safe state. -/
structure SafeState (s : State) : Prop where
  table : s.crc16Table = crc16TableConst
  quiet : s.mode ≠ .run → Quiet s
  cfg : s.mode ≠ .unconfigured → CfgValid s.cfg
  queue : s.mode = .run → s.txq.length ≤ s.cfg.txqCap
  payloads : ∀ m ∈ s.txq, m.payload.length ≤ 255
  sw : ∀ d, SwKept s.cfg (peerGet s.sw d)
  gbn : ∀ d, GbnKept s.cfg (peerGet s.nextTxSeq d) (peerGet s.gbn d)
  emissions : EmissionsInOrder s
  settled : Settled s
  hostOnly : ∀ r ∈ s.port, r.issuer = .host

end Sys2Proof.Machine
end

