-- ==== Sys2Proof/Certificates/Slice0/Obligations.lean ====
section
/-!
DEFINITION. The statements about the model, in the order of the spec's files: the CRC Engine, the Frame Codec, sequencing
and windows, the two ARQ engines, the arbiter, the Node Engine, the whole machine, the encodings, the invariant. Where a
statement fixes what the model adds to the spec (the response register, the error trace, the draws queue, the refusals)
its docstring names the log entry.
-/

open Sys2Proof Sys2Proof.Machine

/-! ### CRC Engine (spec/40_crc.md) -/

/-- R131, R132: every table entry is the division of its leading byte, and the whole is the constants of R132. The
response register is the model's (log 5). -/
def Obligations.Crc16TableHoldsTheDivisionOfEachByte : Prop :=
  SelectedBy .crc16Table 0x10 ∧
  ∀ s : State, ∃ table : PeerMap U16,
    exec .crc16Table s = .next { s with crc16Table := table, result := .nothing } ∧
    (∀ i : Byte, peerGet table i = serialShift^[8] (i.setWidth 16 <<< 8)) ∧ table = crc16TableConst

/-- R133, R135: the table-driven recurrence, its initial value, and the comparison; nothing but the response changes. -/
def Obligations.Crc16FollowsTheTableRecurrence : Prop :=
  ∀ (s : State) (bytes : Bytes) (c : U16),
    SelectedBy (.crc16 bytes) 0x11 ∧ SelectedBy (.crc16Verify bytes c) 0x12 ∧
    exec (.crc16 bytes) s = .next { s with result := .u16 (crc16Of s.crc16Table bytes) } ∧
    exec (.crc16Verify bytes c) s = .next { s with result := .bool (decide (crc16Of s.crc16Table bytes = c)) } ∧
    crc16Of s.crc16Table [] = 0xFFFF ∧
    ∀ b : Byte, crc16Of s.crc16Table (bytes ++ [b]) =
      (crc16Of s.crc16Table bytes <<< 8) ^^^
        peerGet s.crc16Table ((crc16Of s.crc16Table bytes >>> 8).setWidth 8 ^^^ b)

/-- R134: the table form is the bit-serial form, and a message followed by its checksum has checksum 0. -/
def Obligations.Crc16TableFormIsSerialAndResidueIsZero : Prop :=
  ∀ m : Bytes,
    crc16Of crc16TableConst m =
      m.foldl (fun (crc : U16) (b : Byte) => serialShift^[8] (crc ^^^ (b.setWidth 16 <<< 8))) 0xFFFF ∧
    crc16Of crc16TableConst
      (m ++ [(crc16Of crc16TableConst m >>> 8).setWidth 8, (crc16Of crc16TableConst m).setWidth 8]) = 0x0000

/-- R137: the result is what the division loop leaves of the bits with 32 zeros appended, after at most as many passes
as there are bits; it fits 32 bits, and leading zero bits do not change it. -/
def Obligations.Crc32RemIsTheDivisionRemainder : Prop :=
  ∀ (s : State) (bits : Bits), SelectedBy (.crc32Rem bits) 0x13 ∧
    ∃ r n : Nat, exec (.crc32Rem bits) s = .next { s with result := .nat r } ∧
      Crc32Reduces n (bitsVal (bits ++ List.replicate 32 false)) r ∧ n ≤ bits.length ∧ bitlen r ≤ 32 ∧
      exec (.crc32Rem (false :: bits)) s = .next { s with result := .nat r }

/-- R138, the linearity clause: exclusive or of values goes to exclusive or of remainders. -/
def Obligations.Crc32RemIsLinear : Prop :=
  ∀ a b c : Bits, bitsVal c = bitsVal a ^^^ bitsVal b → crc32RemOf c = crc32RemOf a ^^^ crc32RemOf b

/-- R139: the check accepts exactly the multiples of the generator; below 33 bits only all-zero strings. -/
def Obligations.Crc32CheckAcceptsExactlyTheMultiples : Prop :=
  ∀ (s : State) (bits : Bits), SelectedBy (.crc32Check bits) 0x14 ∧
    exec (.crc32Check bits) s = .next { s with result := .bool (decide (crc32RemOf bits = 0)) } ∧
    (crc32RemOf bits = 0 ↔ Crc32Multiple (bitsVal bits)) ∧
    (bits.length < 33 → (crc32RemOf bits = 0 ↔ bits = List.replicate bits.length false))

/-- R141, R140: the generated check bits are the remainder, written in exactly 32 bits, and data followed by them always
passes the check. -/
def Obligations.Crc32GeneratedBitsAlwaysCheck : Prop :=
  ∀ (s : State) (d : Bits), SelectedBy (.crc32Gen d) 0x15 ∧
    ∃ g : Bits, exec (.crc32Gen d) s = .next { s with result := .bits g } ∧
      g.length = 32 ∧ bitsVal g = crc32RemOf d ∧
      exec (.crc32Check (d ++ g)) s = .next { s with result := .bool true }

/-! ### Frame Codec (spec/41_frame_codec.md) -/

/-- R152 on the requests that R104 gives a meaning, byte by byte; and the refusal of the others (U7, log 13). -/
def Obligations.FrameEncodeWritesTheLayout : Prop :=
  ∀ (s : State) (src dst seq ty : Byte) (p : Bytes), p.length ≤ 255 →
    SelectedBy (.frameEncode src dst seq ty p) 0x20 ∧
    (ty = 0x01 ∨ (ty = 0x02 ∧ p = []) →
      ∃ c : U16, c = crc16Of s.crc16Table ([src, dst, seq, ty, BitVec.ofNat 8 p.length] ++ p) ∧
        exec (.frameEncode src dst seq ty p) s =
          .next { s with result := .bytes (s.cfg.preamble ++ s.cfg.syncWord ++
            [src, dst, seq, ty, BitVec.ofNat 8 p.length] ++ p ++ [(c >>> 8).setWidth 8, c.setWidth 8]) }) ∧
    (¬ (ty = 0x01 ∨ (ty = 0x02 ∧ p = [])) →
      exec (.frameEncode src dst seq ty p) s = .refused .illegalFrameRequest)

/-- R153: a payload over 255 bytes is rejected with an explicit error and no byte is produced. That this holds for the
requests of U7 too, the length test coming first, is the model's reading (log 13); the response register and the trace
are the model's (logs 5, 6). -/
def Obligations.FrameEncodeRejectsOversizedPayloads : Prop :=
  ∀ (s : State) (src dst seq ty : Byte) (p : Bytes), 255 < p.length →
    exec (.frameEncode src dst seq ty p) s =
      .next { s with result := .errPayloadTooLong, trace := s.trace ++ [.payloadTooLong] }

/-- R156: the four outcomes of the first candidate, and the one counter; R291: the discard count of a rejection is
recorded, in the model's trace (log 6). -/
def Obligations.FrameDecodeJudgesTheFirstCandidate : Prop :=
  ∀ (s : State) (buf : Bytes) (s0 s1 : Byte), s.cfg.syncWord = [s0, s1] →
    SelectedBy (.frameDecode buf) 0x21 ∧
    ((∀ j, ¬ SyncAt buf s0 s1 j) → exec (.frameDecode buf) s = .next { s with result := .decoded .noSync }) ∧
    ∀ i, FirstSyncAt buf s0 s1 i →
      (buf.length < i + 9 → exec (.frameDecode buf) s = .next { s with result := .decoded .incomplete }) ∧
      (i + 9 ≤ buf.length → ∀ len : Nat, len = (buf.getD (i + 6) 0).toNat →
        (buf.length < i + 9 + len → exec (.frameDecode buf) s = .next { s with result := .decoded .incomplete }) ∧
        (i + 9 + len ≤ buf.length → ∀ rx : U16, rx = buf.getD (i + 7 + len) 0 ++ buf.getD (i + 8 + len) 0 →
          (crc16Of s.crc16Table ((buf.drop (i + 2)).take (5 + len)) = rx →
            exec (.frameDecode buf) s = .next { s with result := .decoded (.frame
              ⟨buf.getD (i + 2) 0, buf.getD (i + 3) 0, buf.getD (i + 4) 0, buf.getD (i + 5) 0,
                (buf.drop (i + 7)).take len⟩ (i + 9 + len)) }) ∧
          (crc16Of s.crc16Table ((buf.drop (i + 2)).take (5 + len)) ≠ rx →
            exec (.frameDecode buf) s = .next { s with
              cnt := { s.cnt with crcFail := s.cnt.crcFail + 1 }
              trace := s.trace ++ [.crcMismatch (if s.cfg.resyncMode = .byte then i + 1 else i + 9 + len)]
              result := .decoded (.rejected (if s.cfg.resyncMode = .byte then i + 1 else i + 9 + len)) })))

/-- R161: decoding an encoded frame gives it back, for every type byte, under every configuration that satisfies R9;
and the encoder answers those bytes for every valid frame. -/
def Obligations.FrameDecodeInvertsEncode : Prop :=
  ∀ (s : State) (f : Frame), SyncAnchored s.cfg → f.payload.length ≤ 255 →
    exec (.frameDecode (frameBytes s.cfg s.crc16Table f.src f.dst f.seq f.ty f.payload)) s =
      .next { s with result := .decoded (.frame f (s.cfg.preamble.length + 9 + f.payload.length)) } ∧
    (f.ty = 0x01 ∨ (f.ty = 0x02 ∧ f.payload = []) →
      exec (.frameEncode f.src f.dst f.seq f.ty f.payload) s =
        .next { s with result := .bytes (frameBytes s.cfg s.crc16Table f.src f.dst f.seq f.ty f.payload) })

/-- R158, R163: in BYTE mode a rejection discards one candidate's first byte and no later sync word; and what `NODE.RX`
leaves in the buffer on `NO_SYNC` (R259) has, with any bytes that arrive later, exactly the sync words that the whole of
the bytes would have had. -/
def Obligations.ResynchronisationLosesNoSyncWord : Prop :=
  ∀ (s t : State) (s0 s1 : Byte), s.cfg.syncWord = [s0, s1] →
    (s.cfg.resyncMode = .byte → ∀ (buf : Bytes) (n : Nat), exec (.frameDecode buf) s = .next t →
      t.result = .decoded (.rejected n) → SyncAt buf s0 s1 (n - 1) ∧ 1 ≤ n ∧
        ∀ j, SyncAt buf s0 s1 j → j = n - 1 ∨ n ≤ j) ∧
    ((∀ j, ¬ SyncAt (s.rxBuf ++ s.rxIn) s0 s1 j) → exec .nodeRx s = .next t →
      ∀ (later : Bytes) (j : Nat),
        SyncAt (s.rxBuf ++ s.rxIn ++ later) s0 s1 j ↔
          ∃ k, j = k + ((s.rxBuf ++ s.rxIn).length - t.rxBuf.length) ∧ SyncAt (t.rxBuf ++ later) s0 s1 k)

/-- R166: address, sequence number, chunk and check bits, in that order; the refusals are those of U8 and R305. -/
def Obligations.BframeEncodeWritesTheLayout : Prop :=
  ∀ (s : State) (addr seq : Nat) (chunk : Bits), SelectedBy (.bframeEncode addr seq chunk) 0x22 ∧
    (s.mode ≠ .unconfigured → s.cfg.profileBEnable = true → addr ≤ 3 → seq ≤ 63 → chunk.length = s.cfg.chunkBits →
      ∃ a q g : Bits, a.length = 2 ∧ bitsVal a = addr ∧ q.length = 6 ∧ bitsVal q = seq ∧
        exec (.crc32Gen (a ++ q ++ chunk)) s = .next { s with result := .bits g } ∧
        (a ++ q ++ chunk ++ g).length = 40 + s.cfg.chunkBits ∧
        exec (.bframeEncode addr seq chunk) s = .next { s with result := .bits (a ++ q ++ chunk ++ g) }) ∧
    (s.mode ≠ .unconfigured → s.cfg.profileBEnable = true →
      ¬ (addr ≤ 3 ∧ seq ≤ 63 ∧ chunk.length = s.cfg.chunkBits) →
      exec (.bframeEncode addr seq chunk) s = .refused .operandOutOfRange) ∧
    (s.mode ≠ .unconfigured → s.cfg.profileBEnable = false →
      exec (.bframeEncode addr seq chunk) s = .refused .profileBDisabled) ∧
    (s.mode = .unconfigured → exec (.bframeEncode addr seq chunk) s = .refused (.notAccepted .unconfigured))

/-- R168: the length test, the check, and the three fields; nothing is counted. -/
def Obligations.BframeCheckSplitsTheFields : Prop :=
  ∀ (s : State) (bits : Bits), SelectedBy (.bframeCheck bits) 0x23 ∧
    (s.mode ≠ .unconfigured → s.cfg.profileBEnable = true →
      (bits.length ≠ 40 + s.cfg.chunkBits → exec (.bframeCheck bits) s = .next { s with result := .bframe .bad }) ∧
      (bits.length = 40 + s.cfg.chunkBits → crc32RemOf bits ≠ 0 →
        exec (.bframeCheck bits) s = .next { s with result := .bframe .bad }) ∧
      (bits.length = 40 + s.cfg.chunkBits → crc32RemOf bits = 0 →
        exec (.bframeCheck bits) s = .next { s with result := .bframe (.good (bitsVal (bits.take 2))
          (bitsVal ((bits.drop 2).take 6)) ((bits.drop 8).take s.cfg.chunkBits)) })) ∧
    (s.mode ≠ .unconfigured → s.cfg.profileBEnable = false →
      exec (.bframeCheck bits) s = .refused .profileBDisabled) ∧
    (s.mode = .unconfigured → exec (.bframeCheck bits) s = .refused (.notAccepted .unconfigured))

/-- R105, R168 on the wire pattern BFRAME: the fields come back when the chunk has the configured length and the check
bits are the ones R141 generates, and the frame is bad otherwise; the refusals are those of U8 and R305. That the
pattern runs the check is log 22. -/
def Obligations.BframeOnTheWireIsChecked : Prop :=
  ∀ (s : State) (addr : BitVec 2) (seq : BitVec 6) (chunk : Bits) (crc : U32),
    (s.mode ≠ .unconfigured → s.cfg.profileBEnable = true →
      (chunk.length = s.cfg.chunkBits → crc.toNat = crc32RemOf (binW 2 addr.toNat ++ binW 6 seq.toNat ++ chunk) →
        exec (.bframe addr seq chunk crc) s =
          .next { s with result := .bframe (.good addr.toNat seq.toNat chunk) }) ∧
      (¬ (chunk.length = s.cfg.chunkBits ∧
          crc.toNat = crc32RemOf (binW 2 addr.toNat ++ binW 6 seq.toNat ++ chunk)) →
        exec (.bframe addr seq chunk crc) s = .next { s with result := .bframe .bad })) ∧
    (s.mode ≠ .unconfigured → s.cfg.profileBEnable = false →
      exec (.bframe addr seq chunk crc) s = .refused .profileBDisabled) ∧
    (s.mode = .unconfigured → exec (.bframe addr seq chunk crc) s = .refused (.notAccepted .unconfigured))

/-- R169: profile B decodes what it encodes, and takes silence for the all-zero frame. -/
def Obligations.BframeCheckInvertsEncode : Prop :=
  ∀ (s : State) (addr seq : Nat) (chunk : Bits), s.mode ≠ .unconfigured → s.cfg.profileBEnable = true →
    addr ≤ 3 → seq ≤ 63 → chunk.length = s.cfg.chunkBits →
    (∃ b : Bits, exec (.bframeEncode addr seq chunk) s = .next { s with result := .bits b } ∧
      exec (.bframeCheck b) s = .next { s with result := .bframe (.good addr seq chunk) }) ∧
    exec (.bframeCheck (List.replicate (40 + s.cfg.chunkBits) false)) s =
      .next { s with result := .bframe (.good 0 0 (List.replicate s.cfg.chunkBits false)) }

/-! ### Sequencing and windows (spec/42_sequencing.md) -/

/-- R181: the number, the counter moved on modulo 256, the other destinations' counters as they were. -/
def Obligations.SeqAllocTakesTheNextNumber : Prop :=
  ∀ (s : State) (dst : Addr), SelectedBy (.seqAlloc dst) 0x30 ∧
    ∃ m : PeerMap Seq,
      exec (.seqAlloc dst) s = .next { s with nextTxSeq := m, result := .seq (peerGet s.nextTxSeq dst) } ∧
      (peerGet m dst).toNat = ((peerGet s.nextTxSeq dst).toNat + 1) % 256 ∧
      ∀ k, k ≠ dst → peerGet m k = peerGet s.nextTxSeq k

/-- R183, R184: the modular distance and the sign test, neither way at distance 128. -/
def Obligations.SeqDistanceAndNewerTest : Prop :=
  ∀ (s : State) (a b : Seq), SelectedBy (.seqDist a b) 0x31 ∧ SelectedBy (.seqNewer a b) 0x32 ∧
    ∃ d : Seq, d.toNat = (if b.toNat ≤ a.toNat then a.toNat - b.toNat else a.toNat + 256 - b.toNat) ∧
      exec (.seqDist a b) s = .next { s with result := .seq d } ∧
      exec (.seqNewer a b) s = .next { s with result := .bool (decide (1 ≤ d.toNat ∧ d.toNat ≤ 127)) } ∧
      (129 ≤ d.toNat → exec (.seqNewer b a) s = .next { s with result := .bool true }) ∧
      (d.toNat = 128 → exec (.seqNewer b a) s = .next { s with result := .bool false })

/-- R186: the verdict, the number to acknowledge, and the one counter that moves. -/
def Obligations.SeqAcceptClassifiesAndAdvances : Prop :=
  ∀ (s : State) (src : Addr) (n : Seq), SelectedBy (.seqAccept src n) 0x33 ∧
    (n = peerGet s.expectedRxSeq src → ∃ m : PeerMap Seq,
      exec (.seqAccept src n) s = .next { s with expectedRxSeq := m, result := .accepted .inOrder n } ∧
      (peerGet m src).toNat = (n.toNat + 1) % 256 ∧ ∀ k, k ≠ src → peerGet m k = peerGet s.expectedRxSeq k) ∧
    (n ≠ peerGet s.expectedRxSeq src → ∃ a : Seq, a.toNat = ((peerGet s.expectedRxSeq src).toNat + 255) % 256 ∧
      exec (.seqAccept src n) s = .next { s with result := .accepted .notInOrder a })

/-- R189: the entry goes to the tail of the destination's window, its feedback not yet sent; on a full window the
operation is refused (U16). That a number which `SEQ.ALLOC` did not just return, outside R189's precondition, is pushed
too is the model's choice (log 17). -/
def Obligations.WinPushAppendsTheEntry : Prop :=
  ∀ (s : State) (dst : Addr) (n : Seq) (frame : Bytes) (last : Bool), SelectedBy (.winPush dst n frame last) 0x34 ∧
    ((peerGet s.gbn dst).window.length < s.cfg.windowSize → ∃ m : PeerMap GbnEntry,
      exec (.winPush dst n frame last) s = .next { s with gbn := m, result := .nothing } ∧
      peerGet m dst =
        { peerGet s.gbn dst with window := (peerGet s.gbn dst).window ++ [⟨n, frame, false, last⟩] } ∧
      ∀ k, k ≠ dst → peerGet m k = peerGet s.gbn k) ∧
    (s.cfg.windowSize ≤ (peerGet s.gbn dst).window.length →
      exec (.winPush dst n frame last) s = .refused .windowFull)

/-- R190: the count by modular distance from the base. -/
def Obligations.WinCoverCountsFromTheBase : Prop :=
  ∀ (s : State) (dst : Addr) (n : Seq), SelectedBy (.winCover dst n) 0x35 ∧
    ((peerGet s.gbn dst).window = [] → exec (.winCover dst n) s = .next { s with result := .covered none }) ∧
    ∀ base ∈ (peerGet s.gbn dst).window.head?, ∀ d : Nat, d = (n - base.seq).toNat →
      (d < (peerGet s.gbn dst).window.length →
        exec (.winCover dst n) s = .next { s with result := .covered (some (d + 1)) }) ∧
      ((peerGet s.gbn dst).window.length ≤ d → exec (.winCover dst n) s = .next { s with result := .covered none })

/-- R31, R193: in a window of consecutive numbers, at most 127 of them, an ACK covers k entries exactly when the k-th
entry carries its number; and it covers some exactly when it names the base or is newer than the base and not beyond
the newest entry. -/
def Obligations.WinCoverIsWindowMembership : Prop :=
  ∀ (s t : State) (dst : Addr) (n : Seq) (r : Option Nat), Contiguous (peerGet s.gbn dst).window →
    (peerGet s.gbn dst).window.length ≤ 127 → exec (.winCover dst n) s = .next t → t.result = .covered r →
    (∀ k, r = some k ↔ 1 ≤ k ∧ ∃ e, (peerGet s.gbn dst).window[k - 1]? = some e ∧ e.seq = n) ∧
    ∀ base ∈ (peerGet s.gbn dst).window.head?, ∀ newest ∈ (peerGet s.gbn dst).window.getLast?,
      (r ≠ none ↔ (n = base.seq ∨ exec (.seqNewer n base.seq) s = .next { s with result := .bool true }) ∧
        (n - base.seq).toNat ≤ (newest.seq - base.seq).toNat)

/-- R191, R192: the removed entries, oldest first, and the window without them; refused for more entries than the window
holds (U16). That k = 0, outside R191's operand range and not named by U16, is refused too is the model's choice
(log 17). -/
def Obligations.WinSlideAndClearRemoveTheOldest : Prop :=
  ∀ (s : State) (dst : Addr) (k : Nat), SelectedBy (.winSlide dst k) 0x36 ∧ SelectedBy (.winClear dst) 0x37 ∧
    (1 ≤ k → k ≤ (peerGet s.gbn dst).window.length → ∃ m : PeerMap GbnEntry,
      exec (.winSlide dst k) s =
        .next { s with gbn := m, result := .entries ((peerGet s.gbn dst).window.take k) } ∧
      peerGet m dst = { peerGet s.gbn dst with window := (peerGet s.gbn dst).window.drop k } ∧
      ∀ j, j ≠ dst → peerGet m j = peerGet s.gbn j) ∧
    (k = 0 ∨ (peerGet s.gbn dst).window.length < k → exec (.winSlide dst k) s = .refused .slideOutOfRange) ∧
    ∃ m : PeerMap GbnEntry,
      exec (.winClear dst) s = .next { s with gbn := m, result := .entries (peerGet s.gbn dst).window } ∧
      peerGet m dst = { peerGet s.gbn dst with window := [] } ∧ ∀ j, j ≠ dst → peerGet m j = peerGet s.gbn j

/-! ### Stop-and-Wait (spec/43_arq_stop_and_wait.md) -/

/-- R201: number, frame, release, count, and the exchange awaiting its ACK with the timer from the emission time; on an
exchange that is not idle the operation is refused (U16). -/
def Obligations.SwStartBeginsTheExchange : Prop :=
  ∀ (s : State) (dst : Addr) (p : Bytes), SelectedBy (.swStart dst p) 0x40 ∧
    ((peerGet s.sw dst).state = .idle → p.length ≤ 255 → s.cfg.backoffMin ≤ s.cfg.backoffMax →
      ∀ (n : Seq) (frame : Bytes), n = peerGet s.nextTxSeq dst →
        frame = frameBytes s.cfg s.crc16Table s.cfg.nodeAddr dst n 0x01 p →
        ∃ e ds k, EmittedAt s.cfg s.clock s.txFreeAt e ∧ DrawsConsumed s ds k ∧
          exec (.swStart dst p) s = .next { s with
            nextTxSeq := peerSet s.nextTxSeq dst (n + 1)
            txFreeAt := e
            txOut := s.txOut ++ [⟨frame, e⟩]
            cnt := { s.cnt with txData := s.cnt.txData + 1 }
            sw := peerSet s.sw dst ⟨.awaitAck, frame, n, 0, e + s.cfg.arqTimeout⟩
            draws := ds
            drawCount := k
            result := .nothing }) ∧
    ((peerGet s.sw dst).state = .awaitAck → exec (.swStart dst p) s = .refused .exchangeBusy)

/-- R203: the matching ACK ends the exchange with one SUCCESS; any other changes nothing. -/
def Obligations.SwAckEndsTheMatchingExchange : Prop :=
  ∀ (s : State) (src : Addr) (n : Seq), SelectedBy (.swAck src n) 0x41 ∧
    ((peerGet s.sw src).state = .awaitAck ∧ (peerGet s.sw src).seq = n →
      exec (.swAck src n) s = .next { s with
        feedbackOut := s.feedbackOut ++ [⟨src, n, .success⟩]
        sw := peerSet s.sw src { peerGet s.sw src with state := .idle }
        result := .nothing }) ∧
    (¬ ((peerGet s.sw src).state = .awaitAck ∧ (peerGet s.sw src).seq = n) →
      exec (.swAck src n) s = .next { s with result := .nothing })

/-- R205: no expiry, the same bytes again with the timer restarted, or the FAILURE. The trace is the model's (log 6). -/
def Obligations.SwTimeoutRetriesOrFails : Prop :=
  ∀ (s : State) (dst : Addr) (x : SwEntry), x = peerGet s.sw dst → SelectedBy (.swTimeout dst) 0x42 ∧
    (x.state = .idle ∨ s.clock < x.deadline → exec (.swTimeout dst) s = .next { s with result := .nothing }) ∧
    (x.state = .awaitAck → x.deadline ≤ s.clock → x.retry < s.cfg.maxRetries → s.cfg.backoffMin ≤ s.cfg.backoffMax →
      ∃ e ds k, EmittedAt s.cfg s.clock s.txFreeAt e ∧ DrawsConsumed s ds k ∧
        exec (.swTimeout dst) s = .next { s with
          txFreeAt := e
          txOut := s.txOut ++ [⟨x.frame, e⟩]
          cnt := { s.cnt with
            winTimeout := s.cnt.winTimeout + 1
            txData := s.cnt.txData + 1
            retx := s.cnt.retx + 1 }
          sw := peerSet s.sw dst { x with retry := x.retry + 1, deadline := e + s.cfg.arqTimeout }
          draws := ds
          drawCount := k
          result := .nothing }) ∧
    (x.state = .awaitAck → x.deadline ≤ s.clock → s.cfg.maxRetries ≤ x.retry →
      exec (.swTimeout dst) s = .next { s with
        cnt := { s.cnt with winTimeout := s.cnt.winTimeout + 1 }
        feedbackOut := s.feedbackOut ++ [⟨dst, x.seq, .failure⟩]
        trace := s.trace ++ [.retryExhausted dst x.seq]
        sw := peerSet s.sw dst { x with state := .idle }
        result := .nothing })

/-- R206: with no ACK, an exchange sends its frame `MAX_RETRIES + 1` times and ends FAILED at expiry number
`MAX_RETRIES + 1`, with the counts the rule gives. -/
def Obligations.SwSendsRetriesPlusOneTimesThenFails : Prop :=
  ∀ (s s1 t : State) (dst : Addr) (p : Bytes), (peerGet s.sw dst).state = .idle → p.length ≤ 255 →
    exec (.swStart dst p) s = .next s1 →
    Expiries (.swTimeout dst) (fun u => (peerGet u.sw dst).deadline) (s.cfg.maxRetries + 1) s1 t →
    (∃ evs : List TxEvent, t.txOut = s.txOut ++ evs ∧
      evs.map TxEvent.frame = List.replicate (s.cfg.maxRetries + 1)
        (frameBytes s.cfg s.crc16Table s.cfg.nodeAddr dst (peerGet s.nextTxSeq dst) 0x01 p)) ∧
    t.feedbackOut = s.feedbackOut ++ [⟨dst, peerGet s.nextTxSeq dst, .failure⟩] ∧
    (peerGet t.sw dst).state = .idle ∧
    t.cnt = { s.cnt with
      winTimeout := s.cnt.winTimeout + (s.cfg.maxRetries + 1)
      retx := s.cnt.retx + s.cfg.maxRetries
      txData := s.cnt.txData + (s.cfg.maxRetries + 1) }

/-! ### Go-Back-N (spec/44_arq_go_back_n.md) -/

/-- R221: number, frame, release, count, the entry at the tail; the retry count and the timer only for a window that was
empty; on a full window the operation is refused (U16). -/
def Obligations.GbnAdmitExtendsTheWindow : Prop :=
  ∀ (s : State) (dst : Addr) (p : Bytes) (g : GbnEntry), g = peerGet s.gbn dst → SelectedBy (.gbnAdmit dst p) 0x48 ∧
    (g.window.length < s.cfg.windowSize → p.length ≤ 255 → s.cfg.backoffMin ≤ s.cfg.backoffMax →
      ∀ (n : Seq) (frame : Bytes), n = peerGet s.nextTxSeq dst →
        frame = frameBytes s.cfg s.crc16Table s.cfg.nodeAddr dst n 0x01 p →
        ∃ e ds k, EmittedAt s.cfg s.clock s.txFreeAt e ∧ DrawsConsumed s ds k ∧
          exec (.gbnAdmit dst p) s = .next { s with
            nextTxSeq := peerSet s.nextTxSeq dst (n + 1)
            txFreeAt := e
            txOut := s.txOut ++ [⟨frame, e⟩]
            cnt := { s.cnt with txData := s.cnt.txData + 1 }
            gbn := peerSet s.gbn dst
              { window := g.window ++ [⟨n, frame, false, true⟩]
                retry := if g.window = [] then 0 else g.retry
                deadline := if g.window = [] then e + s.cfg.arqTimeout else g.deadline }
            draws := ds
            drawCount := k
            result := .nothing }) ∧
    (s.cfg.windowSize ≤ g.window.length → exec (.gbnAdmit dst p) s = .refused .windowFull)

/-- R224: an ACK that covers k entries, counted from the base as R190 counts them, slides the window, reports each
removed message once, and restarts the timer of what is left. R225: any other ACK changes nothing. -/
def Obligations.GbnAckSlidesTheWindow : Prop :=
  ∀ (s : State) (src : Addr) (n : Seq) (g : GbnEntry), g = peerGet s.gbn src → SelectedBy (.gbnAck src n) 0x49 ∧
    (g.window = [] ∨ (∃ base ∈ g.window.head?, g.window.length ≤ (n - base.seq).toNat) →
      exec (.gbnAck src n) s = .next { s with result := .nothing }) ∧
    ∀ base ∈ g.window.head?, ∀ k : Nat, k = (n - base.seq).toNat + 1 → k ≤ g.window.length →
      exec (.gbnAck src n) s = .next { s with
        feedbackOut := s.feedbackOut ++
          ((g.window.take k).filter (fun e => e.lastOfMessage && !e.feedbackAlreadySent)).map
            (fun e => ⟨src, e.seq, .success⟩)
        gbn := peerSet s.gbn src
          { window := g.window.drop k
            retry := if g.window.drop k = [] then g.retry else 0
            deadline := if g.window.drop k = [] then g.deadline else s.clock + s.cfg.arqTimeout }
        result := .nothing }

/-- R226: no expiry, every frame of the window again, in order and through the arbiter, or the FAILURE of the whole
window. The trace is the model's (log 6). -/
def Obligations.GbnTimeoutResendsTheWindowOrFails : Prop :=
  ∀ (s : State) (dst : Addr) (g : GbnEntry), g = peerGet s.gbn dst → SelectedBy (.gbnTimeout dst) 0x4A ∧
    (g.window = [] ∨ s.clock < g.deadline → exec (.gbnTimeout dst) s = .next { s with result := .nothing }) ∧
    (g.window ≠ [] → g.deadline ≤ s.clock → g.retry + 1 ≤ s.cfg.maxRetries → s.cfg.backoffMin ≤ s.cfg.backoffMax →
      ∃ evs e ds k, evs.map TxEvent.frame = g.window.map WinEntry.frame ∧
        EmittedInTurn s.cfg s.clock s.txFreeAt (evs.map TxEvent.emitTime) ∧
        (evs.map TxEvent.emitTime).getLast? = some e ∧ DrawsConsumed s ds k ∧
        exec (.gbnTimeout dst) s = .next { s with
          txFreeAt := e
          txOut := s.txOut ++ evs
          cnt := { s.cnt with
            winTimeout := s.cnt.winTimeout + 1
            txData := s.cnt.txData + g.window.length
            retx := s.cnt.retx + g.window.length }
          gbn := peerSet s.gbn dst { g with retry := g.retry + 1, deadline := e + s.cfg.arqTimeout }
          draws := ds
          drawCount := k
          result := .nothing }) ∧
    (g.window ≠ [] → g.deadline ≤ s.clock → s.cfg.maxRetries < g.retry + 1 →
      ∀ failed : List WinEntry, failed = g.window.filter (fun e => e.lastOfMessage && !e.feedbackAlreadySent) →
        exec (.gbnTimeout dst) s = .next { s with
          cnt := { s.cnt with winTimeout := s.cnt.winTimeout + 1 }
          feedbackOut := s.feedbackOut ++ failed.map (fun e => ⟨dst, e.seq, .failure⟩)
          trace := s.trace ++ failed.map (fun e => .retryExhausted dst e.seq)
          gbn := peerSet s.gbn dst { g with window := [], retry := 0 }
          result := .nothing })

/-- R227: a window that no ACK touches is sent again, whole, at each of the first `MAX_RETRIES` expiries, and expiry
number `MAX_RETRIES + 1` fails it. -/
def Obligations.GbnResendsRetriesTimesThenFails : Prop :=
  ∀ (s t : State) (dst : Addr) (w : List WinEntry), (peerGet s.gbn dst).window = w → w ≠ [] →
    (peerGet s.gbn dst).retry = 0 →
    Expiries (.gbnTimeout dst) (fun u => (peerGet u.gbn dst).deadline) (s.cfg.maxRetries + 1) s t →
    (∃ evs : List TxEvent, t.txOut = s.txOut ++ evs ∧
      evs.map TxEvent.frame = (List.replicate s.cfg.maxRetries (w.map WinEntry.frame)).flatten) ∧
    t.feedbackOut = s.feedbackOut ++
      (w.filter (fun e => e.lastOfMessage && !e.feedbackAlreadySent)).map (fun e => ⟨dst, e.seq, .failure⟩) ∧
    (peerGet t.gbn dst).window = [] ∧
    t.cnt = { s.cnt with
      winTimeout := s.cnt.winTimeout + (s.cfg.maxRetries + 1)
      retx := s.cnt.retx + s.cfg.maxRetries * w.length
      txData := s.cnt.txData + s.cfg.maxRetries * w.length }

/-- R230, and the same of the Stop-and-Wait operations: an operation on destination d leaves every other destination's
window, exchange and counter as they are, and what it does at d does not depend on theirs. -/
def Obligations.DestinationsAreIndependent : Prop :=
  ∀ (i : Instr) (d k : Addr) (s t : State), k ≠ d →
    ((∃ p, i = .gbnAdmit d p) ∨ (∃ n, i = .gbnAck d n) ∨ i = .gbnTimeout d ∨
      (∃ p, i = .swStart d p) ∨ (∃ n, i = .swAck d n) ∨ i = .swTimeout d) →
    exec i s = .next t →
    peerGet t.gbn k = peerGet s.gbn k ∧ peerGet t.sw k = peerGet s.sw k ∧
      peerGet t.nextTxSeq k = peerGet s.nextTxSeq k ∧
      ∀ (g : GbnEntry) (x : SwEntry) (n : Seq),
        exec i { s with
          gbn := peerSet s.gbn k g, sw := peerSet s.sw k x, nextTxSeq := peerSet s.nextTxSeq k n } =
        .next { t with gbn := peerSet t.gbn k g, sw := peerSet t.sw k x, nextTxSeq := peerSet t.nextTxSeq k n }

/-- R294 at the two admissions: a payload that `FRAME.ENCODE` cannot take is refused whole. No caller passes one; what a
direct call does is the model's choice (log 14). -/
def Obligations.OversizedAdmissionsHaveNoOtherEffect : Prop :=
  ∀ (s : State) (dst : Addr) (p : Bytes), 255 < p.length →
    ((peerGet s.sw dst).state = .idle → exec (.swStart dst p) s =
      .next { s with result := .errPayloadTooLong, trace := s.trace ++ [.payloadTooLong] }) ∧
    ((peerGet s.gbn dst).window.length < s.cfg.windowSize → exec (.gbnAdmit dst p) s =
      .next { s with result := .errPayloadTooLong, trace := s.trace ++ [.payloadTooLong] })

/-! ### Arbiter (spec/45_aloha_mac.md) -/

/-- R241: one event, at an emission time the draws allow, and the transmitter free again from then on. A draw that comes
with the operation and that R241 allows is the one used (log 7). -/
def Obligations.MacSendReleasesTheFrame : Prop :=
  ∀ (s : State) (frame : Bytes) (t : Nat) (d : Draw), SelectedBy (.macSend frame t d) 0x50 ∧
    (s.cfg.backoffMin ≤ s.cfg.backoffMax → ∃ e ds n, EmittedAt s.cfg t s.txFreeAt e ∧ ds <:+ d :: s.draws ∧
      s.drawCount ≤ n ∧
      (drawLegal s.cfg d = true →
        e = max t s.txFreeAt + (if d.go then 0 else d.delay) ∧ ds = s.draws ∧ n = s.drawCount) ∧
      exec (.macSend frame t d) s = .next { s with
        txFreeAt := e
        txOut := s.txOut ++ [⟨frame, e⟩]
        draws := ds
        drawCount := n
        result := .time e })

/-- R244: the delay of one call, and of k calls at one time. -/
def Obligations.MacSendDelayIsBounded : Prop :=
  ∀ s : State, s.cfg.backoffMin ≤ s.cfg.backoffMax →
    (∀ (frame : Bytes) (t : Nat) (d : Draw), ∃ u e, exec (.macSend frame t d) s = .next u ∧ u.result = .time e ∧
      t ≤ e ∧ e ≤ max t s.txFreeAt + s.cfg.backoffMax) ∧
    ∀ (now k : Nat) (u : State), s.txFreeAt ≤ now → SendsAt now k s u → u.txFreeAt ≤ now + k * s.cfg.backoffMax

/-! ### Node Engine (spec/46_node_engine.md) -/

/-- R255: pass by pass, head first; the queue is empty at the end and nothing but the engines and the feedback moved. -/
def Obligations.NodeAcksDrainsTheQueue : Prop :=
  SelectedBy .nodeAcks 0x60 ∧
  (∀ s : State, s.ackq = [] → exec .nodeAcks s = .next { s with result := .nothing }) ∧
  (∀ (s s1 : State) (a : AckNote) (rest : List AckNote), s.ackq = a :: rest →
    (s.cfg.arqMode = .sw → exec (.swAck a.src a.seq) { s with ackq := rest } = .next s1 →
      exec .nodeAcks s = exec .nodeAcks s1) ∧
    (s.cfg.arqMode = .gbn → exec (.gbnAck a.src a.seq) { s with ackq := rest } = .next s1 →
      exec .nodeAcks s = exec .nodeAcks s1)) ∧
  ∀ s : State, ∃ t, exec .nodeAcks s = .next t ∧
    t = { s with ackq := [], sw := t.sw, gbn := t.gbn, feedbackOut := t.feedbackOut, result := .nothing }

/-- R256: the timeout operation of every destination once, in ascending order. -/
def Obligations.NodeTimersScansEveryDestinationOnce : Prop :=
  SelectedBy .nodeTimers 0x61 ∧
  ∀ s : State, ∃ st : Nat → State, st 0 = { s with result := .nothing } ∧
    (∀ k, k < 256 →
      (s.cfg.arqMode = .sw → exec (.swTimeout (BitVec.ofNat 8 k)) (st k) = .next (st (k + 1))) ∧
      (s.cfg.arqMode = .gbn → exec (.gbnTimeout (BitVec.ofNat 8 k)) (st k) = .next (st (k + 1)))) ∧
    exec .nodeTimers s = .next (st 256)

/-- R258: pass by pass, strictly first in first out, stopping at the first message without room. -/
def Obligations.NodeAdmitIsHeadOfLine : Prop :=
  SelectedBy .nodeAdmit 0x62 ∧
  (∀ s : State, s.txq = [] → exec .nodeAdmit s = .next { s with result := .nothing }) ∧
  (∀ (s : State) (m : Message) (rest : List Message), s.txq = m :: rest →
    (s.cfg.arqMode = .sw → (peerGet s.sw m.dst).state = .awaitAck →
      exec .nodeAdmit s = .next { s with result := .nothing }) ∧
    (s.cfg.arqMode = .gbn → s.cfg.windowSize ≤ (peerGet s.gbn m.dst).window.length →
      exec .nodeAdmit s = .next { s with result := .nothing }) ∧
    (∀ s1, s.cfg.arqMode = .sw → exec (.swStart m.dst m.payload) { s with txq := rest } = .next s1 →
      exec .nodeAdmit s = exec .nodeAdmit s1) ∧
    (∀ s1, s.cfg.arqMode = .gbn → exec (.gbnAdmit m.dst m.payload) { s with txq := rest } = .next s1 →
      exec .nodeAdmit s = exec .nodeAdmit s1)) ∧
  ∀ s : State, ∃ t, exec .nodeAdmit s = .next t ∧ t.txq <:+ s.txq ∧
    t = { s with
      txq := t.txq, nextTxSeq := t.nextTxSeq, sw := t.sw, gbn := t.gbn, txFreeAt := t.txFreeAt, txOut := t.txOut,
      cnt := t.cnt, trace := t.trace, draws := t.draws, drawCount := t.drawCount, result := .nothing }

/-- R259: the inbound bytes join the buffer, and then pass by pass what `FRAME.DECODE` answers is handled; R291: the
discard count of `NO_SYNC` is recorded, in the model's trace (log 6). -/
def Obligations.NodeRxHandlesEachOutcome : Prop :=
  SelectedBy .nodeRx 0x63 ∧
  (∀ s : State, exec .nodeRx s = exec .nodeRx { s with rxBuf := s.rxBuf ++ s.rxIn, rxIn := [] }) ∧
  ∀ s s1 : State, s.rxIn = [] → exec (.frameDecode s.rxBuf) s = .next s1 →
    (s1.result = .decoded .noSync → exec .nodeRx s = .next { s1 with
      rxBuf := s.rxBuf.drop (s.rxBuf.length - 1), trace := s1.trace ++ [.noSync (s.rxBuf.length - 1)], result := .nothing }) ∧
    (s1.result = .decoded .incomplete → exec .nodeRx s = .next { s1 with result := .nothing }) ∧
    (∀ n, s1.result = .decoded (.rejected n) →
      exec .nodeRx s = exec .nodeRx { s1 with rxBuf := s.rxBuf.drop n }) ∧
    ∀ f n s2, s1.result = .decoded (.frame f n) →
      exec (.nodeRxFrame f) { s1 with rxBuf := s.rxBuf.drop n } = .next s2 → exec .nodeRx s = exec .nodeRx s2

/-- R261, R266, R269: the phase ends, with a buffer that holds no frame and no rejection; ACKs found are only queued, and
no transmit state moves. -/
def Obligations.NodeRxEndsSettled : Prop :=
  ∀ s : State, ∃ t, exec .nodeRx s = .next t ∧ Settled t ∧ s.ackq <+: t.ackq ∧ t.rxBuf <:+ s.rxBuf ++ s.rxIn ∧
    t = { s with
      rxIn := [], rxBuf := t.rxBuf, ackq := t.ackq, expectedRxSeq := t.expectedRxSeq, deliverOut := t.deliverOut,
      txFreeAt := t.txFreeAt, txOut := t.txOut, cnt := t.cnt, trace := t.trace, draws := t.draws,
      drawCount := t.drawCount, result := .nothing }

/-- R263: the address filter, then the type; violations and ACKs are counted, strangers are not. That a frame with more
than 255 payload bytes, which R151 excludes, is routed too is the model's choice (log 30); the trace is the model's
(log 6). -/
def Obligations.NodeRxFrameRoutesByAddressAndType : Prop :=
  ∀ (s : State) (f : Frame), SelectedBy (.nodeRxFrame f) 0x64 ∧
    (f.dst ≠ s.cfg.nodeAddr ∧ f.dst ≠ 0xFF → exec (.nodeRxFrame f) s = .next { s with result := .nothing }) ∧
    (f.dst = s.cfg.nodeAddr ∨ f.dst = 0xFF →
      (f.ty = 0x01 → exec (.nodeRxFrame f) s = exec (.nodeRxData f) s) ∧
      (f.ty = 0x02 → f.payload ≠ [] → exec (.nodeRxFrame f) s = .next { s with
        cnt := { s.cnt with protoViolation := s.cnt.protoViolation + 1 }
        trace := s.trace ++ [.ackWithPayload]
        result := .nothing }) ∧
      (f.ty = 0x02 → f.payload = [] → exec (.nodeRxFrame f) s = .next { s with
        cnt := { s.cnt with rxAck := s.cnt.rxAck + 1 }
        ackq := s.ackq ++ [⟨f.src, f.seq⟩]
        result := .nothing }) ∧
      (f.ty ≠ 0x01 → f.ty ≠ 0x02 → exec (.nodeRxFrame f) s = .next { s with
        cnt := { s.cnt with protoViolation := s.cnt.protoViolation + 1 }
        trace := s.trace ++ [.unknownType]
        result := .nothing }))

/-- R264: one count, at most one delivery, and exactly one ACK, with the number R186 chooses. That a frame outside R264's
operand condition (another type, or not for this node) is processed as DATA too is the model's choice (log 29), and so
is that of a payload over 255 bytes (log 30). -/
def Obligations.NodeRxDataDeliversInOrderAndAcknowledges : Prop :=
  ∀ (s : State) (f : Frame) (x : Seq), x = peerGet s.expectedRxSeq f.src → SelectedBy (.nodeRxData f) 0x65 ∧
    (s.cfg.backoffMin ≤ s.cfg.backoffMax → ∃ e ds n, EmittedAt s.cfg s.clock s.txFreeAt e ∧ DrawsConsumed s ds n ∧
      (f.seq = x → exec (.nodeRxData f) s = .next { s with
        expectedRxSeq := peerSet s.expectedRxSeq f.src (x + 1)
        deliverOut := s.deliverOut ++ [⟨f.src, f.payload⟩]
        txFreeAt := e
        txOut := s.txOut ++ [⟨frameBytes s.cfg s.crc16Table s.cfg.nodeAddr f.src f.seq 0x02 [], e⟩]
        cnt := { s.cnt with rxData := s.cnt.rxData + 1, txAck := s.cnt.txAck + 1 }
        draws := ds
        drawCount := n
        result := .nothing }) ∧
      (f.seq ≠ x → exec (.nodeRxData f) s = .next { s with
        txFreeAt := e
        txOut := s.txOut ++ [⟨frameBytes s.cfg s.crc16Table s.cfg.nodeAddr f.src (x - 1) 0x02 [], e⟩]
        cnt := { s.cnt with rxData := s.cnt.rxData + 1, txAck := s.cnt.txAck + 1 }
        draws := ds
        drawCount := n
        result := .nothing }))

/-- R103, R263, R264 on the four wire patterns of profile A. That a pattern stands for a frame that passed its CRC is
log 22; that an ill-formed one with more than 255 payload bytes is routed too is log 30; the trace is log 6. -/
def Obligations.FramesOnTheWireAreRouted : Prop :=
  ∀ (s : State) (src dst : Addr) (seq x : Seq) (ty : Byte) (p : Bytes), x = peerGet s.expectedRxSeq src →
    (dst ≠ s.cfg.nodeAddr ∧ dst ≠ 0xFF →
      exec (.data src dst seq p) s = .next { s with result := .nothing } ∧
      exec (.ack src dst seq) s = .next { s with result := .nothing } ∧
      exec (.ackWithPayload src dst seq p) s = .next { s with result := .nothing } ∧
      exec (.unknownType src dst seq ty p) s = .next { s with result := .nothing }) ∧
    (dst = s.cfg.nodeAddr ∨ dst = 0xFF →
      (s.cfg.backoffMin ≤ s.cfg.backoffMax →
        ∃ e ds n, EmittedAt s.cfg s.clock s.txFreeAt e ∧ DrawsConsumed s ds n ∧
          exec (.data src dst seq p) s = .next { s with
            expectedRxSeq := if seq = x then peerSet s.expectedRxSeq src (x + 1) else s.expectedRxSeq
            deliverOut := if seq = x then s.deliverOut ++ [⟨src, p⟩] else s.deliverOut
            txFreeAt := e
            txOut := s.txOut ++
              [⟨frameBytes s.cfg s.crc16Table s.cfg.nodeAddr src (if seq = x then seq else x - 1) 0x02 [], e⟩]
            cnt := { s.cnt with rxData := s.cnt.rxData + 1, txAck := s.cnt.txAck + 1 }
            draws := ds
            drawCount := n
            result := .nothing }) ∧
      exec (.ack src dst seq) s = .next { s with
        cnt := { s.cnt with rxAck := s.cnt.rxAck + 1 }, ackq := s.ackq ++ [⟨src, seq⟩], result := .nothing } ∧
      (p ≠ [] → exec (.ackWithPayload src dst seq p) s = .next { s with
        cnt := { s.cnt with protoViolation := s.cnt.protoViolation + 1 }
        trace := s.trace ++ [.ackWithPayload]
        result := .nothing }) ∧
      (ty ≠ 0x01 → ty ≠ 0x02 → exec (.unknownType src dst seq ty p) s = .next { s with
        cnt := { s.cnt with protoViolation := s.cnt.protoViolation + 1 }
        trace := s.trace ++ [.unknownType]
        result := .nothing }))

/-- R267: a frame accepted in order and received again is delivered once and acknowledged twice, both times with its own
number. That it holds of a frame with more than 255 payload bytes too is the model's choice (log 30). -/
def Obligations.DuplicatesAreDeliveredOnceAndAcknowledgedTwice : Prop :=
  ∀ (s : State) (f : Frame), f.ty = 0x01 → f.dst = s.cfg.nodeAddr ∨ f.dst = 0xFF →
    f.seq = peerGet s.expectedRxSeq f.src → ∃ s1 s2 e1 e2 a,
      exec (.nodeRxFrame f) s = .next s1 ∧ exec (.nodeRxFrame f) s1 = .next s2 ∧
      a = frameBytes s.cfg s.crc16Table s.cfg.nodeAddr f.src f.seq 0x02 [] ∧
      s2.deliverOut = s.deliverOut ++ [⟨f.src, f.payload⟩] ∧ s2.txOut = s.txOut ++ [⟨a, e1⟩, ⟨a, e2⟩] ∧
      s2.expectedRxSeq = s1.expectedRxSeq ∧ s2.cnt.rxData = s.cnt.rxData + 2 ∧ s2.cnt.txAck = s.cnt.txAck + 2

/-! ### Host operations (spec/46_node_engine.md, spec/10_state.md) -/

/-- R250, R45: from any state, in any mode, every field for which the spec states a reset value has it; the model's own
trace, draws and port stay (log 23), its response is cleared (log 5). -/
def Obligations.ResetRestoresEveryStatedValue : Prop :=
  SelectedBy .reset 0x00 ∧
  ∀ s : State, ∃ t, exec .reset s = .next t ∧ t.mode = .unconfigured ∧ t.crc16Table = crc16TableConst ∧
    t.rxBuf = [] ∧ t.rxIn = [] ∧ (∀ k, peerGet t.nextTxSeq k = 0) ∧ (∀ k, peerGet t.expectedRxSeq k = 0) ∧
    (∀ k, (peerGet t.sw k).state = .idle) ∧ (∀ k, (peerGet t.gbn k).window = [] ∧ (peerGet t.gbn k).retry = 0) ∧
    t.txFreeAt = 0 ∧ t.clock = 0 ∧ t.txq = [] ∧ t.ackq = [] ∧ t.cnt = ⟨0, 0, 0, 0, 0, 0, 0, 0⟩ ∧
    t.txOut = [] ∧ t.deliverOut = [] ∧ t.feedbackOut = [] ∧
    t.trace = s.trace ∧ t.draws = s.draws ∧ t.drawCount = s.drawCount ∧ t.port = s.port ∧ t.result = .nothing

/-- R251, R252: a record that meets the ten clauses is latched and the node runs; otherwise the answer is `ERR_CONFIG`
and the first failing clause is the cause in the model's trace (log 6). The codes of the enumerations are log 15. -/
def Obligations.ConfigLatchesExactlyTheValidRecords : Prop :=
  ∀ (s : State) (r : CfgRequest), SelectedBy (.config r) 0x01 ∧
    (s.mode = .unconfigured → (∀ n, CfgClause r n) → ∃ c : Cfg,
      exec (.config r) s = .next { s with cfg := c, mode := .run, result := .ok } ∧
      c.nodeAddr = r.nodeAddr ∧ (c.arqMode = .sw ↔ r.arqMode = 0) ∧ (c.arqMode = .gbn ↔ r.arqMode = 1) ∧
      c.windowSize = r.windowSize ∧ c.maxRetries = r.maxRetries ∧ c.arqTimeout = r.arqTimeout ∧
      c.pollInterval = r.pollInterval ∧ c.alohaProb = r.alohaProb ∧ c.backoffMin = r.backoffMin ∧
      c.backoffMax = r.backoffMax ∧ c.preamble = r.preamble ∧ c.syncWord = r.syncWord ∧
      (c.resyncMode = .byte ↔ r.resyncMode = 0) ∧ (c.resyncMode = .candidate ↔ r.resyncMode = 1) ∧
      c.txqCap = r.txqCap ∧ c.profileBEnable = r.profileBEnable ∧ c.chunkBits = r.chunkBits) ∧
    (s.mode = .unconfigured → ∀ n, 1 ≤ n → n ≤ 10 → ¬ CfgClause r n → (∀ m, m < n → CfgClause r m) →
      exec (.config r) s = .next { s with result := .errConfig, trace := s.trace ++ [.cfgClause n] }) ∧
    (s.mode ≠ .unconfigured → exec (.config r) s = .refused (.notAccepted s.mode))

/-- R253: the length test, then the capacity test, then the queue. That a message to 0xFF is queued as well, where U1 says
refuse or run the ordinary rules, is the model's choice (log 12); the trace is the model's (log 6). -/
def Obligations.SubmitQueuesOrRefusesWhole : Prop :=
  ∀ (s : State) (dst : Addr) (p : Bytes), SelectedBy (.submit dst p) 0x02 ∧
    (s.mode = .run →
      (255 < p.length → exec (.submit dst p) s =
        .next { s with result := .errPayloadTooLong, trace := s.trace ++ [.payloadTooLong] }) ∧
      (p.length ≤ 255 → s.cfg.txqCap ≤ s.txq.length → exec (.submit dst p) s = .next { s with result := .busy }) ∧
      (p.length ≤ 255 → s.txq.length < s.cfg.txqCap →
        exec (.submit dst p) s = .next { s with txq := s.txq ++ [⟨dst, p⟩], result := .ok })) ∧
    (s.mode ≠ .run → exec (.submit dst p) s = .refused (.notAccepted s.mode))

/-- R260: the bytes join the inbound channel, and their boundaries are forgotten. -/
def Obligations.RxBytesAppends : Prop :=
  ∀ (s : State) (b c : Bytes), SelectedBy (.rxBytes b) 0x03 ∧
    (s.mode = .run → exec (.rxBytes b) s = .next { s with rxIn := s.rxIn ++ b, result := .nothing } ∧
      ∀ s1, exec (.rxBytes b) s = .next s1 → exec (.rxBytes c) s1 = exec (.rxBytes (b ++ c)) s) ∧
    (s.mode ≠ .run → exec (.rxBytes b) s = .refused (.notAccepted s.mode))

/-- R254: the clock, then the four phases in order, each as its own operation runs it; the draws supplied with the tick
are consumed first (log 7). A clock that runs backwards is refused (U2). -/
def Obligations.TickRunsTheFourPhases : Prop :=
  ∀ (s : State) (now : Nat) (free : List Draw), SelectedBy (.tick now free) 0x04 ∧
    (s.mode = .run → s.clock ≤ now →
      (∀ s1 s2 s3 s4, exec .nodeAcks { s with clock := now, draws := free ++ s.draws } = .next s1 →
        exec .nodeTimers s1 = .next s2 → exec .nodeAdmit s2 = .next s3 → exec .nodeRx s3 = .next s4 →
        exec (.tick now free) s = .next { s4 with result := .nothing }) ∧
      ∃ t, exec (.tick now free) s = .next t ∧ t.clock = now ∧ t.mode = .run ∧ t.cfg = s.cfg ∧
        t.crc16Table = s.crc16Table ∧ t.rxIn = [] ∧ Settled t ∧ t.txq <:+ s.txq ∧ t.draws <:+ free ++ s.draws ∧
        t.port = s.port ∧ t.result = .nothing) ∧
    (s.mode = .run → now < s.clock → exec (.tick now free) s = .refused .clockBackwards) ∧
    (s.mode ≠ .run → exec (.tick now free) s = .refused (.notAccepted s.mode))

/-- R262: every exchange and window at rest, the queues and buffers empty, no event; in STOPPED nothing changes. -/
def Obligations.ShutdownBringsEverythingToRest : Prop :=
  SelectedBy .shutdown 0x05 ∧
  ∀ s : State,
    (s.mode = .run → ∃ t, exec .shutdown s = .next t ∧
      (∀ k, peerGet t.sw k = { peerGet s.sw k with state := .idle }) ∧
      (∀ k, peerGet t.gbn k = { peerGet s.gbn k with window := [], retry := 0 }) ∧
      t = { s with
        sw := t.sw, gbn := t.gbn, txq := [], ackq := [], rxIn := [], rxBuf := [], mode := .stopped,
        result := .nothing }) ∧
    (s.mode = .stopped → exec .shutdown s = .next { s with result := .nothing }) ∧
    (s.mode = .unconfigured → exec .shutdown s = .refused (.notAccepted s.mode))

/-- R53: the eight counters as they stand, and no change. -/
def Obligations.StatsReadReturnsTheCounters : Prop :=
  SelectedBy .statsRead 0x06 ∧
  ∀ s : State, (s.mode = .run ∨ s.mode = .stopped → exec .statsRead s = .next { s with result := .stats s.cnt }) ∧
    (s.mode = .unconfigured → exec .statsRead s = .refused (.notAccepted s.mode))

/-! ### The whole machine -/

/-- R21, R22, R305: the run mode moves only by the three operations and along the three transitions, and CFG is written
only by RESET and CONFIG. -/
def Obligations.ModeAndConfigurationMoveOnlyByTheirOperations : Prop :=
  ∀ (i : Instr) (s t : State), exec i s = .next t →
    (t.mode ≠ s.mode →
      (i = .reset ∧ t.mode = .unconfigured) ∨
      ((∃ r, i = .config r) ∧ s.mode = .unconfigured ∧ t.mode = .run) ∨
      (i = .shutdown ∧ s.mode = .run ∧ t.mode = .stopped)) ∧
    (t.cfg ≠ s.cfg → i = .reset ∨ ∃ r, i = .config r)

/-- R23, R25 to R27, R29, R30, R36 to R38, R49 to R51: who writes the table, the receive buffer, the two counters of each
peer, the exchanges and windows, the queues, the inbound bytes, the two times and the output channels. RESET writes them
all, and an operation writes what the operations it runs write. A wire pattern writes what the receive path writes
(log 22); the ill-formed ones, an ACK_WITH_PAYLOAD with no payload and an UNKNOWN_TYPE with the type byte of DATA or of
ACK, which no words decode to, write what DATA and ACK write. -/
def Obligations.StateFieldsHaveFixedWriters : Prop :=
  ∀ (i : Instr) (s t : State), exec i s = .next t → i = .reset ∨
    (t.crc16Table ≠ s.crc16Table → i = .crc16Table) ∧
    (t.clock ≠ s.clock → IsTick i) ∧
    (t.nextTxSeq ≠ s.nextTxSeq → IsTick i ∨ i = .nodeAdmit ∨ (∃ d, i = .seqAlloc d) ∨ (∃ d p, i = .swStart d p) ∨
      ∃ d p, i = .gbnAdmit d p) ∧
    (t.expectedRxSeq ≠ s.expectedRxSeq → IsTick i ∨ ReceivesData i ∨ ∃ d n, i = .seqAccept d n) ∧
    (t.sw ≠ s.sw → IsTick i ∨ i = .shutdown ∨ i = .nodeAcks ∨ i = .nodeTimers ∨ i = .nodeAdmit ∨
      (∃ d p, i = .swStart d p) ∨ (∃ d n, i = .swAck d n) ∨ ∃ d, i = .swTimeout d) ∧
    (t.gbn ≠ s.gbn → IsTick i ∨ i = .shutdown ∨ i = .nodeAcks ∨ i = .nodeTimers ∨ i = .nodeAdmit ∨
      (∃ d p, i = .gbnAdmit d p) ∨ (∃ d n, i = .gbnAck d n) ∨ (∃ d, i = .gbnTimeout d) ∨
      (∃ d n f l, i = .winPush d n f l) ∨ (∃ d k, i = .winSlide d k) ∨ ∃ d, i = .winClear d) ∧
    (t.txq ≠ s.txq → IsTick i ∨ i = .shutdown ∨ i = .nodeAdmit ∨ ∃ d p, i = .submit d p) ∧
    (t.ackq ≠ s.ackq → IsTick i ∨ i = .shutdown ∨ i = .nodeAcks ∨ ReceivesAck i) ∧
    (t.rxIn ≠ s.rxIn → IsTick i ∨ i = .shutdown ∨ i = .nodeRx ∨ ∃ b, i = .rxBytes b) ∧
    (t.rxBuf ≠ s.rxBuf → IsTick i ∨ i = .shutdown ∨ i = .nodeRx) ∧
    (t.txFreeAt ≠ s.txFreeAt ∨ t.txOut ≠ s.txOut → IsTick i ∨ SendsFrames i) ∧
    (t.deliverOut ≠ s.deliverOut → IsTick i ∨ ReceivesData i) ∧
    (t.feedbackOut ≠ s.feedbackOut → IsTick i ∨ i = .nodeAcks ∨ i = .nodeTimers ∨ (∃ d n, i = .swAck d n) ∨
      (∃ d, i = .swTimeout d) ∨ (∃ d n, i = .gbnAck d n) ∨ ∃ d, i = .gbnTimeout d)

/-- R34, R49, R50, R51: but for RESET no counter goes down and no event leaves an output channel; and no operation
rewinds the transmitter's time. -/
def Obligations.CountersAndOutputsOnlyGrow : Prop :=
  ∀ (i : Instr) (s t : State), i ≠ .reset → exec i s = .next t →
    s.txOut <+: t.txOut ∧ s.deliverOut <+: t.deliverOut ∧ s.feedbackOut <+: t.feedbackOut ∧
      s.txFreeAt ≤ t.txFreeAt ∧
      s.cnt.txData ≤ t.cnt.txData ∧ s.cnt.rxData ≤ t.cnt.rxData ∧ s.cnt.txAck ≤ t.cnt.txAck ∧
      s.cnt.rxAck ≤ t.cnt.rxAck ∧ s.cnt.retx ≤ t.cnt.retx ∧ s.cnt.crcFail ≤ t.cnt.crcFail ∧
      s.cnt.winTimeout ≤ t.cnt.winTimeout ∧ s.cnt.protoViolation ≤ t.cnt.protoViolation

/-- R265 on the model's port (log 1): a step runs the instruction its request decodes to, with the request taken. With
no request nothing happens; a reserved code selects nothing (U17), and an internal operation is refused from the host
(R305, U14). -/
def Obligations.StepRunsTheDecodedInstruction : Prop :=
  (∀ (s : State) (q : Request) (rest : List Request) (i : Instr), s.port = q :: rest →
    decode q.format q.bytes = .ok i →
    (q.issuer = .core ∨ i.kind = .host → step s = exec i { s with port := rest }) ∧
    (q.issuer = .host → i.kind = .core → step s = .refused .internalFromHost)) ∧
  (∀ s : State, s.port = [] → step s = .next s) ∧
  ∀ (s : State) (q : Request) (rest : List Request) (e : DecodeError), s.port = q :: rest →
    decode q.format q.bytes = .error e → step s = .refused (.undecodable e)

/-! ### Encodings (spec/30_encoding.md; logs 2, 3, 4) -/

/-- The operation requests: decoding an encoded operation gives it back, with every operand at every value, and zero
padding after it changes nothing. The layout of the operands is the model's (log 2). -/
def Obligations.DecodeInvertsEncodeOnOperations : Prop :=
  ∀ (i : Instr) (pad : Nat), i.format = .op →
    decode (encode i).1 ((encode i).2 ++ List.replicate pad 0) = .ok i

/-- The wire patterns of R91, R103 and R105: decoding an encoded well-formed frame gives it back. That the words leave
out the CRC is log 3, that a bit takes a byte is log 4. -/
def Obligations.DecodeInvertsEncodeOnWirePatterns : Prop :=
  ∀ i : Instr, i.format ≠ .op → i.wellFormed = true → decode (encode i).1 (encode i).2 = .ok i

/-- Words written out from R118, R91, R103 and R105 decode to the instructions they stand for. -/
def Obligations.WordsOfTheSpecDecode : Prop :=
  decode .op [0x00] = .ok .reset ∧ decode .op [0x63] = .ok .nodeRx ∧ decode .op [0x30, 0x07] = .ok (.seqAlloc 7) ∧
  decode .op [0x41, 0x02, 0x09] = .ok (.swAck 2 9) ∧
  decode .aFrame [0x02, 0x01, 0x00, 0x01, 0x02, 0x4F, 0x4B] = .ok (.data 2 1 0 [0x4F, 0x4B]) ∧
  decode .aFrame [0x02, 0x01, 0x05, 0x02, 0x00] = .ok (.ack 2 1 5) ∧
  decode .aFrame [0x02, 0x01, 0x05, 0x02, 0x01, 0x00] = .ok (.ackWithPayload 2 1 5 [0]) ∧
  decode .aFrame [0x02, 0x01, 0x05, 0x07, 0x00] = .ok (.unknownType 2 1 5 7 []) ∧
  decode .op [0x07] = .error (.reservedOpsel 0x07)

/-! ### The invariant -/

/-- Every step that answers a next state keeps the safe states safe: R31, R36, R61, R64, R132, R242, R252, R261, R262. -/
def Obligations.EveryStepKeepsTheNodeSafe : Prop :=
  ∀ s t : State, SafeState s → step s = .next t → SafeState t

/-- The state after reset is safe (R45). -/
def Obligations.ResetStateIsSafe : Prop := SafeState State.reset
end

