-- ==== Sys2Proof/Laws/State.lean ====
section
/-!
SUPPORT. For each named update of the state, what every field holds afterwards: one lemma per field, true by rfl.
-/

namespace Sys2Proof.Machine

variable (s : State)

/-! ### answer -/

@[simp] theorem State.answer_mode (r : Response) : (s.answer r).mode = s.mode := rfl
@[simp] theorem State.answer_cfg (r : Response) : (s.answer r).cfg = s.cfg := rfl
@[simp] theorem State.answer_crc16Table (r : Response) : (s.answer r).crc16Table = s.crc16Table := rfl
@[simp] theorem State.answer_rxBuf (r : Response) : (s.answer r).rxBuf = s.rxBuf := rfl
@[simp] theorem State.answer_nextTxSeq (r : Response) : (s.answer r).nextTxSeq = s.nextTxSeq := rfl
@[simp] theorem State.answer_expectedRxSeq (r : Response) : (s.answer r).expectedRxSeq = s.expectedRxSeq := rfl
@[simp] theorem State.answer_sw (r : Response) : (s.answer r).sw = s.sw := rfl
@[simp] theorem State.answer_gbn (r : Response) : (s.answer r).gbn = s.gbn := rfl
@[simp] theorem State.answer_txFreeAt (r : Response) : (s.answer r).txFreeAt = s.txFreeAt := rfl
@[simp] theorem State.answer_clock (r : Response) : (s.answer r).clock = s.clock := rfl
@[simp] theorem State.answer_txq (r : Response) : (s.answer r).txq = s.txq := rfl
@[simp] theorem State.answer_ackq (r : Response) : (s.answer r).ackq = s.ackq := rfl
@[simp] theorem State.answer_rxIn (r : Response) : (s.answer r).rxIn = s.rxIn := rfl
@[simp] theorem State.answer_cnt (r : Response) : (s.answer r).cnt = s.cnt := rfl
@[simp] theorem State.answer_txOut (r : Response) : (s.answer r).txOut = s.txOut := rfl
@[simp] theorem State.answer_deliverOut (r : Response) : (s.answer r).deliverOut = s.deliverOut := rfl
@[simp] theorem State.answer_feedbackOut (r : Response) : (s.answer r).feedbackOut = s.feedbackOut := rfl
@[simp] theorem State.answer_result (r : Response) : (s.answer r).result = r := rfl
@[simp] theorem State.answer_trace (r : Response) : (s.answer r).trace = s.trace := rfl
@[simp] theorem State.answer_draws (r : Response) : (s.answer r).draws = s.draws := rfl
@[simp] theorem State.answer_drawCount (r : Response) : (s.answer r).drawCount = s.drawCount := rfl
@[simp] theorem State.answer_port (r : Response) : (s.answer r).port = s.port := rfl

/-! ### setNextTxSeq -/

@[simp] theorem State.setNextTxSeq_mode (d : Addr) (n : Seq) : (s.setNextTxSeq d n).mode = s.mode := rfl
@[simp] theorem State.setNextTxSeq_cfg (d : Addr) (n : Seq) : (s.setNextTxSeq d n).cfg = s.cfg := rfl
@[simp] theorem State.setNextTxSeq_crc16Table (d : Addr) (n : Seq) : (s.setNextTxSeq d n).crc16Table = s.crc16Table := rfl
@[simp] theorem State.setNextTxSeq_rxBuf (d : Addr) (n : Seq) : (s.setNextTxSeq d n).rxBuf = s.rxBuf := rfl
@[simp] theorem State.setNextTxSeq_nextTxSeq (d : Addr) (n : Seq) : (s.setNextTxSeq d n).nextTxSeq = peerSet s.nextTxSeq d n := rfl
@[simp] theorem State.setNextTxSeq_expectedRxSeq (d : Addr) (n : Seq) : (s.setNextTxSeq d n).expectedRxSeq = s.expectedRxSeq := rfl
@[simp] theorem State.setNextTxSeq_sw (d : Addr) (n : Seq) : (s.setNextTxSeq d n).sw = s.sw := rfl
@[simp] theorem State.setNextTxSeq_gbn (d : Addr) (n : Seq) : (s.setNextTxSeq d n).gbn = s.gbn := rfl
@[simp] theorem State.setNextTxSeq_txFreeAt (d : Addr) (n : Seq) : (s.setNextTxSeq d n).txFreeAt = s.txFreeAt := rfl
@[simp] theorem State.setNextTxSeq_clock (d : Addr) (n : Seq) : (s.setNextTxSeq d n).clock = s.clock := rfl
@[simp] theorem State.setNextTxSeq_txq (d : Addr) (n : Seq) : (s.setNextTxSeq d n).txq = s.txq := rfl
@[simp] theorem State.setNextTxSeq_ackq (d : Addr) (n : Seq) : (s.setNextTxSeq d n).ackq = s.ackq := rfl
@[simp] theorem State.setNextTxSeq_rxIn (d : Addr) (n : Seq) : (s.setNextTxSeq d n).rxIn = s.rxIn := rfl
@[simp] theorem State.setNextTxSeq_cnt (d : Addr) (n : Seq) : (s.setNextTxSeq d n).cnt = s.cnt := rfl
@[simp] theorem State.setNextTxSeq_txOut (d : Addr) (n : Seq) : (s.setNextTxSeq d n).txOut = s.txOut := rfl
@[simp] theorem State.setNextTxSeq_deliverOut (d : Addr) (n : Seq) : (s.setNextTxSeq d n).deliverOut = s.deliverOut := rfl
@[simp] theorem State.setNextTxSeq_feedbackOut (d : Addr) (n : Seq) : (s.setNextTxSeq d n).feedbackOut = s.feedbackOut := rfl
@[simp] theorem State.setNextTxSeq_result (d : Addr) (n : Seq) : (s.setNextTxSeq d n).result = s.result := rfl
@[simp] theorem State.setNextTxSeq_trace (d : Addr) (n : Seq) : (s.setNextTxSeq d n).trace = s.trace := rfl
@[simp] theorem State.setNextTxSeq_draws (d : Addr) (n : Seq) : (s.setNextTxSeq d n).draws = s.draws := rfl
@[simp] theorem State.setNextTxSeq_drawCount (d : Addr) (n : Seq) : (s.setNextTxSeq d n).drawCount = s.drawCount := rfl
@[simp] theorem State.setNextTxSeq_port (d : Addr) (n : Seq) : (s.setNextTxSeq d n).port = s.port := rfl

/-! ### setExpectedRxSeq -/

@[simp] theorem State.setExpectedRxSeq_mode (d : Addr) (n : Seq) : (s.setExpectedRxSeq d n).mode = s.mode := rfl
@[simp] theorem State.setExpectedRxSeq_cfg (d : Addr) (n : Seq) : (s.setExpectedRxSeq d n).cfg = s.cfg := rfl
@[simp] theorem State.setExpectedRxSeq_crc16Table (d : Addr) (n : Seq) : (s.setExpectedRxSeq d n).crc16Table = s.crc16Table := rfl
@[simp] theorem State.setExpectedRxSeq_rxBuf (d : Addr) (n : Seq) : (s.setExpectedRxSeq d n).rxBuf = s.rxBuf := rfl
@[simp] theorem State.setExpectedRxSeq_nextTxSeq (d : Addr) (n : Seq) : (s.setExpectedRxSeq d n).nextTxSeq = s.nextTxSeq := rfl
@[simp] theorem State.setExpectedRxSeq_expectedRxSeq (d : Addr) (n : Seq) : (s.setExpectedRxSeq d n).expectedRxSeq = peerSet s.expectedRxSeq d n := rfl
@[simp] theorem State.setExpectedRxSeq_sw (d : Addr) (n : Seq) : (s.setExpectedRxSeq d n).sw = s.sw := rfl
@[simp] theorem State.setExpectedRxSeq_gbn (d : Addr) (n : Seq) : (s.setExpectedRxSeq d n).gbn = s.gbn := rfl
@[simp] theorem State.setExpectedRxSeq_txFreeAt (d : Addr) (n : Seq) : (s.setExpectedRxSeq d n).txFreeAt = s.txFreeAt := rfl
@[simp] theorem State.setExpectedRxSeq_clock (d : Addr) (n : Seq) : (s.setExpectedRxSeq d n).clock = s.clock := rfl
@[simp] theorem State.setExpectedRxSeq_txq (d : Addr) (n : Seq) : (s.setExpectedRxSeq d n).txq = s.txq := rfl
@[simp] theorem State.setExpectedRxSeq_ackq (d : Addr) (n : Seq) : (s.setExpectedRxSeq d n).ackq = s.ackq := rfl
@[simp] theorem State.setExpectedRxSeq_rxIn (d : Addr) (n : Seq) : (s.setExpectedRxSeq d n).rxIn = s.rxIn := rfl
@[simp] theorem State.setExpectedRxSeq_cnt (d : Addr) (n : Seq) : (s.setExpectedRxSeq d n).cnt = s.cnt := rfl
@[simp] theorem State.setExpectedRxSeq_txOut (d : Addr) (n : Seq) : (s.setExpectedRxSeq d n).txOut = s.txOut := rfl
@[simp] theorem State.setExpectedRxSeq_deliverOut (d : Addr) (n : Seq) : (s.setExpectedRxSeq d n).deliverOut = s.deliverOut := rfl
@[simp] theorem State.setExpectedRxSeq_feedbackOut (d : Addr) (n : Seq) : (s.setExpectedRxSeq d n).feedbackOut = s.feedbackOut := rfl
@[simp] theorem State.setExpectedRxSeq_result (d : Addr) (n : Seq) : (s.setExpectedRxSeq d n).result = s.result := rfl
@[simp] theorem State.setExpectedRxSeq_trace (d : Addr) (n : Seq) : (s.setExpectedRxSeq d n).trace = s.trace := rfl
@[simp] theorem State.setExpectedRxSeq_draws (d : Addr) (n : Seq) : (s.setExpectedRxSeq d n).draws = s.draws := rfl
@[simp] theorem State.setExpectedRxSeq_drawCount (d : Addr) (n : Seq) : (s.setExpectedRxSeq d n).drawCount = s.drawCount := rfl
@[simp] theorem State.setExpectedRxSeq_port (d : Addr) (n : Seq) : (s.setExpectedRxSeq d n).port = s.port := rfl

/-! ### setSw -/

@[simp] theorem State.setSw_mode (d : Addr) (x : SwEntry) : (s.setSw d x).mode = s.mode := rfl
@[simp] theorem State.setSw_cfg (d : Addr) (x : SwEntry) : (s.setSw d x).cfg = s.cfg := rfl
@[simp] theorem State.setSw_crc16Table (d : Addr) (x : SwEntry) : (s.setSw d x).crc16Table = s.crc16Table := rfl
@[simp] theorem State.setSw_rxBuf (d : Addr) (x : SwEntry) : (s.setSw d x).rxBuf = s.rxBuf := rfl
@[simp] theorem State.setSw_nextTxSeq (d : Addr) (x : SwEntry) : (s.setSw d x).nextTxSeq = s.nextTxSeq := rfl
@[simp] theorem State.setSw_expectedRxSeq (d : Addr) (x : SwEntry) : (s.setSw d x).expectedRxSeq = s.expectedRxSeq := rfl
@[simp] theorem State.setSw_sw (d : Addr) (x : SwEntry) : (s.setSw d x).sw = peerSet s.sw d x := rfl
@[simp] theorem State.setSw_gbn (d : Addr) (x : SwEntry) : (s.setSw d x).gbn = s.gbn := rfl
@[simp] theorem State.setSw_txFreeAt (d : Addr) (x : SwEntry) : (s.setSw d x).txFreeAt = s.txFreeAt := rfl
@[simp] theorem State.setSw_clock (d : Addr) (x : SwEntry) : (s.setSw d x).clock = s.clock := rfl
@[simp] theorem State.setSw_txq (d : Addr) (x : SwEntry) : (s.setSw d x).txq = s.txq := rfl
@[simp] theorem State.setSw_ackq (d : Addr) (x : SwEntry) : (s.setSw d x).ackq = s.ackq := rfl
@[simp] theorem State.setSw_rxIn (d : Addr) (x : SwEntry) : (s.setSw d x).rxIn = s.rxIn := rfl
@[simp] theorem State.setSw_cnt (d : Addr) (x : SwEntry) : (s.setSw d x).cnt = s.cnt := rfl
@[simp] theorem State.setSw_txOut (d : Addr) (x : SwEntry) : (s.setSw d x).txOut = s.txOut := rfl
@[simp] theorem State.setSw_deliverOut (d : Addr) (x : SwEntry) : (s.setSw d x).deliverOut = s.deliverOut := rfl
@[simp] theorem State.setSw_feedbackOut (d : Addr) (x : SwEntry) : (s.setSw d x).feedbackOut = s.feedbackOut := rfl
@[simp] theorem State.setSw_result (d : Addr) (x : SwEntry) : (s.setSw d x).result = s.result := rfl
@[simp] theorem State.setSw_trace (d : Addr) (x : SwEntry) : (s.setSw d x).trace = s.trace := rfl
@[simp] theorem State.setSw_draws (d : Addr) (x : SwEntry) : (s.setSw d x).draws = s.draws := rfl
@[simp] theorem State.setSw_drawCount (d : Addr) (x : SwEntry) : (s.setSw d x).drawCount = s.drawCount := rfl
@[simp] theorem State.setSw_port (d : Addr) (x : SwEntry) : (s.setSw d x).port = s.port := rfl

/-! ### setGbn -/

@[simp] theorem State.setGbn_mode (d : Addr) (x : GbnEntry) : (s.setGbn d x).mode = s.mode := rfl
@[simp] theorem State.setGbn_cfg (d : Addr) (x : GbnEntry) : (s.setGbn d x).cfg = s.cfg := rfl
@[simp] theorem State.setGbn_crc16Table (d : Addr) (x : GbnEntry) : (s.setGbn d x).crc16Table = s.crc16Table := rfl
@[simp] theorem State.setGbn_rxBuf (d : Addr) (x : GbnEntry) : (s.setGbn d x).rxBuf = s.rxBuf := rfl
@[simp] theorem State.setGbn_nextTxSeq (d : Addr) (x : GbnEntry) : (s.setGbn d x).nextTxSeq = s.nextTxSeq := rfl
@[simp] theorem State.setGbn_expectedRxSeq (d : Addr) (x : GbnEntry) : (s.setGbn d x).expectedRxSeq = s.expectedRxSeq := rfl
@[simp] theorem State.setGbn_sw (d : Addr) (x : GbnEntry) : (s.setGbn d x).sw = s.sw := rfl
@[simp] theorem State.setGbn_gbn (d : Addr) (x : GbnEntry) : (s.setGbn d x).gbn = peerSet s.gbn d x := rfl
@[simp] theorem State.setGbn_txFreeAt (d : Addr) (x : GbnEntry) : (s.setGbn d x).txFreeAt = s.txFreeAt := rfl
@[simp] theorem State.setGbn_clock (d : Addr) (x : GbnEntry) : (s.setGbn d x).clock = s.clock := rfl
@[simp] theorem State.setGbn_txq (d : Addr) (x : GbnEntry) : (s.setGbn d x).txq = s.txq := rfl
@[simp] theorem State.setGbn_ackq (d : Addr) (x : GbnEntry) : (s.setGbn d x).ackq = s.ackq := rfl
@[simp] theorem State.setGbn_rxIn (d : Addr) (x : GbnEntry) : (s.setGbn d x).rxIn = s.rxIn := rfl
@[simp] theorem State.setGbn_cnt (d : Addr) (x : GbnEntry) : (s.setGbn d x).cnt = s.cnt := rfl
@[simp] theorem State.setGbn_txOut (d : Addr) (x : GbnEntry) : (s.setGbn d x).txOut = s.txOut := rfl
@[simp] theorem State.setGbn_deliverOut (d : Addr) (x : GbnEntry) : (s.setGbn d x).deliverOut = s.deliverOut := rfl
@[simp] theorem State.setGbn_feedbackOut (d : Addr) (x : GbnEntry) : (s.setGbn d x).feedbackOut = s.feedbackOut := rfl
@[simp] theorem State.setGbn_result (d : Addr) (x : GbnEntry) : (s.setGbn d x).result = s.result := rfl
@[simp] theorem State.setGbn_trace (d : Addr) (x : GbnEntry) : (s.setGbn d x).trace = s.trace := rfl
@[simp] theorem State.setGbn_draws (d : Addr) (x : GbnEntry) : (s.setGbn d x).draws = s.draws := rfl
@[simp] theorem State.setGbn_drawCount (d : Addr) (x : GbnEntry) : (s.setGbn d x).drawCount = s.drawCount := rfl
@[simp] theorem State.setGbn_port (d : Addr) (x : GbnEntry) : (s.setGbn d x).port = s.port := rfl

/-! ### setRxBuf -/

@[simp] theorem State.setRxBuf_mode (b : Bytes) : (s.setRxBuf b).mode = s.mode := rfl
@[simp] theorem State.setRxBuf_cfg (b : Bytes) : (s.setRxBuf b).cfg = s.cfg := rfl
@[simp] theorem State.setRxBuf_crc16Table (b : Bytes) : (s.setRxBuf b).crc16Table = s.crc16Table := rfl
@[simp] theorem State.setRxBuf_rxBuf (b : Bytes) : (s.setRxBuf b).rxBuf = b := rfl
@[simp] theorem State.setRxBuf_nextTxSeq (b : Bytes) : (s.setRxBuf b).nextTxSeq = s.nextTxSeq := rfl
@[simp] theorem State.setRxBuf_expectedRxSeq (b : Bytes) : (s.setRxBuf b).expectedRxSeq = s.expectedRxSeq := rfl
@[simp] theorem State.setRxBuf_sw (b : Bytes) : (s.setRxBuf b).sw = s.sw := rfl
@[simp] theorem State.setRxBuf_gbn (b : Bytes) : (s.setRxBuf b).gbn = s.gbn := rfl
@[simp] theorem State.setRxBuf_txFreeAt (b : Bytes) : (s.setRxBuf b).txFreeAt = s.txFreeAt := rfl
@[simp] theorem State.setRxBuf_clock (b : Bytes) : (s.setRxBuf b).clock = s.clock := rfl
@[simp] theorem State.setRxBuf_txq (b : Bytes) : (s.setRxBuf b).txq = s.txq := rfl
@[simp] theorem State.setRxBuf_ackq (b : Bytes) : (s.setRxBuf b).ackq = s.ackq := rfl
@[simp] theorem State.setRxBuf_rxIn (b : Bytes) : (s.setRxBuf b).rxIn = s.rxIn := rfl
@[simp] theorem State.setRxBuf_cnt (b : Bytes) : (s.setRxBuf b).cnt = s.cnt := rfl
@[simp] theorem State.setRxBuf_txOut (b : Bytes) : (s.setRxBuf b).txOut = s.txOut := rfl
@[simp] theorem State.setRxBuf_deliverOut (b : Bytes) : (s.setRxBuf b).deliverOut = s.deliverOut := rfl
@[simp] theorem State.setRxBuf_feedbackOut (b : Bytes) : (s.setRxBuf b).feedbackOut = s.feedbackOut := rfl
@[simp] theorem State.setRxBuf_result (b : Bytes) : (s.setRxBuf b).result = s.result := rfl
@[simp] theorem State.setRxBuf_trace (b : Bytes) : (s.setRxBuf b).trace = s.trace := rfl
@[simp] theorem State.setRxBuf_draws (b : Bytes) : (s.setRxBuf b).draws = s.draws := rfl
@[simp] theorem State.setRxBuf_drawCount (b : Bytes) : (s.setRxBuf b).drawCount = s.drawCount := rfl
@[simp] theorem State.setRxBuf_port (b : Bytes) : (s.setRxBuf b).port = s.port := rfl

/-! ### count -/

@[simp] theorem State.count_mode (n : CounterName) : (s.count n).mode = s.mode := rfl
@[simp] theorem State.count_cfg (n : CounterName) : (s.count n).cfg = s.cfg := rfl
@[simp] theorem State.count_crc16Table (n : CounterName) : (s.count n).crc16Table = s.crc16Table := rfl
@[simp] theorem State.count_rxBuf (n : CounterName) : (s.count n).rxBuf = s.rxBuf := rfl
@[simp] theorem State.count_nextTxSeq (n : CounterName) : (s.count n).nextTxSeq = s.nextTxSeq := rfl
@[simp] theorem State.count_expectedRxSeq (n : CounterName) : (s.count n).expectedRxSeq = s.expectedRxSeq := rfl
@[simp] theorem State.count_sw (n : CounterName) : (s.count n).sw = s.sw := rfl
@[simp] theorem State.count_gbn (n : CounterName) : (s.count n).gbn = s.gbn := rfl
@[simp] theorem State.count_txFreeAt (n : CounterName) : (s.count n).txFreeAt = s.txFreeAt := rfl
@[simp] theorem State.count_clock (n : CounterName) : (s.count n).clock = s.clock := rfl
@[simp] theorem State.count_txq (n : CounterName) : (s.count n).txq = s.txq := rfl
@[simp] theorem State.count_ackq (n : CounterName) : (s.count n).ackq = s.ackq := rfl
@[simp] theorem State.count_rxIn (n : CounterName) : (s.count n).rxIn = s.rxIn := rfl
@[simp] theorem State.count_cnt (n : CounterName) : (s.count n).cnt = s.cnt.inc n := rfl
@[simp] theorem State.count_txOut (n : CounterName) : (s.count n).txOut = s.txOut := rfl
@[simp] theorem State.count_deliverOut (n : CounterName) : (s.count n).deliverOut = s.deliverOut := rfl
@[simp] theorem State.count_feedbackOut (n : CounterName) : (s.count n).feedbackOut = s.feedbackOut := rfl
@[simp] theorem State.count_result (n : CounterName) : (s.count n).result = s.result := rfl
@[simp] theorem State.count_trace (n : CounterName) : (s.count n).trace = s.trace := rfl
@[simp] theorem State.count_draws (n : CounterName) : (s.count n).draws = s.draws := rfl
@[simp] theorem State.count_drawCount (n : CounterName) : (s.count n).drawCount = s.drawCount := rfl
@[simp] theorem State.count_port (n : CounterName) : (s.count n).port = s.port := rfl

/-! ### emitTx -/

@[simp] theorem State.emitTx_mode (e : TxEvent) : (s.emitTx e).mode = s.mode := rfl
@[simp] theorem State.emitTx_cfg (e : TxEvent) : (s.emitTx e).cfg = s.cfg := rfl
@[simp] theorem State.emitTx_crc16Table (e : TxEvent) : (s.emitTx e).crc16Table = s.crc16Table := rfl
@[simp] theorem State.emitTx_rxBuf (e : TxEvent) : (s.emitTx e).rxBuf = s.rxBuf := rfl
@[simp] theorem State.emitTx_nextTxSeq (e : TxEvent) : (s.emitTx e).nextTxSeq = s.nextTxSeq := rfl
@[simp] theorem State.emitTx_expectedRxSeq (e : TxEvent) : (s.emitTx e).expectedRxSeq = s.expectedRxSeq := rfl
@[simp] theorem State.emitTx_sw (e : TxEvent) : (s.emitTx e).sw = s.sw := rfl
@[simp] theorem State.emitTx_gbn (e : TxEvent) : (s.emitTx e).gbn = s.gbn := rfl
@[simp] theorem State.emitTx_txFreeAt (e : TxEvent) : (s.emitTx e).txFreeAt = s.txFreeAt := rfl
@[simp] theorem State.emitTx_clock (e : TxEvent) : (s.emitTx e).clock = s.clock := rfl
@[simp] theorem State.emitTx_txq (e : TxEvent) : (s.emitTx e).txq = s.txq := rfl
@[simp] theorem State.emitTx_ackq (e : TxEvent) : (s.emitTx e).ackq = s.ackq := rfl
@[simp] theorem State.emitTx_rxIn (e : TxEvent) : (s.emitTx e).rxIn = s.rxIn := rfl
@[simp] theorem State.emitTx_cnt (e : TxEvent) : (s.emitTx e).cnt = s.cnt := rfl
@[simp] theorem State.emitTx_txOut (e : TxEvent) : (s.emitTx e).txOut = s.txOut ++ [e] := rfl
@[simp] theorem State.emitTx_deliverOut (e : TxEvent) : (s.emitTx e).deliverOut = s.deliverOut := rfl
@[simp] theorem State.emitTx_feedbackOut (e : TxEvent) : (s.emitTx e).feedbackOut = s.feedbackOut := rfl
@[simp] theorem State.emitTx_result (e : TxEvent) : (s.emitTx e).result = s.result := rfl
@[simp] theorem State.emitTx_trace (e : TxEvent) : (s.emitTx e).trace = s.trace := rfl
@[simp] theorem State.emitTx_draws (e : TxEvent) : (s.emitTx e).draws = s.draws := rfl
@[simp] theorem State.emitTx_drawCount (e : TxEvent) : (s.emitTx e).drawCount = s.drawCount := rfl
@[simp] theorem State.emitTx_port (e : TxEvent) : (s.emitTx e).port = s.port := rfl

/-! ### emitDeliver -/

@[simp] theorem State.emitDeliver_mode (e : DeliverEvent) : (s.emitDeliver e).mode = s.mode := rfl
@[simp] theorem State.emitDeliver_cfg (e : DeliverEvent) : (s.emitDeliver e).cfg = s.cfg := rfl
@[simp] theorem State.emitDeliver_crc16Table (e : DeliverEvent) : (s.emitDeliver e).crc16Table = s.crc16Table := rfl
@[simp] theorem State.emitDeliver_rxBuf (e : DeliverEvent) : (s.emitDeliver e).rxBuf = s.rxBuf := rfl
@[simp] theorem State.emitDeliver_nextTxSeq (e : DeliverEvent) : (s.emitDeliver e).nextTxSeq = s.nextTxSeq := rfl
@[simp] theorem State.emitDeliver_expectedRxSeq (e : DeliverEvent) : (s.emitDeliver e).expectedRxSeq = s.expectedRxSeq := rfl
@[simp] theorem State.emitDeliver_sw (e : DeliverEvent) : (s.emitDeliver e).sw = s.sw := rfl
@[simp] theorem State.emitDeliver_gbn (e : DeliverEvent) : (s.emitDeliver e).gbn = s.gbn := rfl
@[simp] theorem State.emitDeliver_txFreeAt (e : DeliverEvent) : (s.emitDeliver e).txFreeAt = s.txFreeAt := rfl
@[simp] theorem State.emitDeliver_clock (e : DeliverEvent) : (s.emitDeliver e).clock = s.clock := rfl
@[simp] theorem State.emitDeliver_txq (e : DeliverEvent) : (s.emitDeliver e).txq = s.txq := rfl
@[simp] theorem State.emitDeliver_ackq (e : DeliverEvent) : (s.emitDeliver e).ackq = s.ackq := rfl
@[simp] theorem State.emitDeliver_rxIn (e : DeliverEvent) : (s.emitDeliver e).rxIn = s.rxIn := rfl
@[simp] theorem State.emitDeliver_cnt (e : DeliverEvent) : (s.emitDeliver e).cnt = s.cnt := rfl
@[simp] theorem State.emitDeliver_txOut (e : DeliverEvent) : (s.emitDeliver e).txOut = s.txOut := rfl
@[simp] theorem State.emitDeliver_deliverOut (e : DeliverEvent) : (s.emitDeliver e).deliverOut = s.deliverOut ++ [e] := rfl
@[simp] theorem State.emitDeliver_feedbackOut (e : DeliverEvent) : (s.emitDeliver e).feedbackOut = s.feedbackOut := rfl
@[simp] theorem State.emitDeliver_result (e : DeliverEvent) : (s.emitDeliver e).result = s.result := rfl
@[simp] theorem State.emitDeliver_trace (e : DeliverEvent) : (s.emitDeliver e).trace = s.trace := rfl
@[simp] theorem State.emitDeliver_draws (e : DeliverEvent) : (s.emitDeliver e).draws = s.draws := rfl
@[simp] theorem State.emitDeliver_drawCount (e : DeliverEvent) : (s.emitDeliver e).drawCount = s.drawCount := rfl
@[simp] theorem State.emitDeliver_port (e : DeliverEvent) : (s.emitDeliver e).port = s.port := rfl

/-! ### emitFeedback -/

@[simp] theorem State.emitFeedback_mode (e : FeedbackEvent) : (s.emitFeedback e).mode = s.mode := rfl
@[simp] theorem State.emitFeedback_cfg (e : FeedbackEvent) : (s.emitFeedback e).cfg = s.cfg := rfl
@[simp] theorem State.emitFeedback_crc16Table (e : FeedbackEvent) : (s.emitFeedback e).crc16Table = s.crc16Table := rfl
@[simp] theorem State.emitFeedback_rxBuf (e : FeedbackEvent) : (s.emitFeedback e).rxBuf = s.rxBuf := rfl
@[simp] theorem State.emitFeedback_nextTxSeq (e : FeedbackEvent) : (s.emitFeedback e).nextTxSeq = s.nextTxSeq := rfl
@[simp] theorem State.emitFeedback_expectedRxSeq (e : FeedbackEvent) : (s.emitFeedback e).expectedRxSeq = s.expectedRxSeq := rfl
@[simp] theorem State.emitFeedback_sw (e : FeedbackEvent) : (s.emitFeedback e).sw = s.sw := rfl
@[simp] theorem State.emitFeedback_gbn (e : FeedbackEvent) : (s.emitFeedback e).gbn = s.gbn := rfl
@[simp] theorem State.emitFeedback_txFreeAt (e : FeedbackEvent) : (s.emitFeedback e).txFreeAt = s.txFreeAt := rfl
@[simp] theorem State.emitFeedback_clock (e : FeedbackEvent) : (s.emitFeedback e).clock = s.clock := rfl
@[simp] theorem State.emitFeedback_txq (e : FeedbackEvent) : (s.emitFeedback e).txq = s.txq := rfl
@[simp] theorem State.emitFeedback_ackq (e : FeedbackEvent) : (s.emitFeedback e).ackq = s.ackq := rfl
@[simp] theorem State.emitFeedback_rxIn (e : FeedbackEvent) : (s.emitFeedback e).rxIn = s.rxIn := rfl
@[simp] theorem State.emitFeedback_cnt (e : FeedbackEvent) : (s.emitFeedback e).cnt = s.cnt := rfl
@[simp] theorem State.emitFeedback_txOut (e : FeedbackEvent) : (s.emitFeedback e).txOut = s.txOut := rfl
@[simp] theorem State.emitFeedback_deliverOut (e : FeedbackEvent) : (s.emitFeedback e).deliverOut = s.deliverOut := rfl
@[simp] theorem State.emitFeedback_feedbackOut (e : FeedbackEvent) : (s.emitFeedback e).feedbackOut = s.feedbackOut ++ [e] := rfl
@[simp] theorem State.emitFeedback_result (e : FeedbackEvent) : (s.emitFeedback e).result = s.result := rfl
@[simp] theorem State.emitFeedback_trace (e : FeedbackEvent) : (s.emitFeedback e).trace = s.trace := rfl
@[simp] theorem State.emitFeedback_draws (e : FeedbackEvent) : (s.emitFeedback e).draws = s.draws := rfl
@[simp] theorem State.emitFeedback_drawCount (e : FeedbackEvent) : (s.emitFeedback e).drawCount = s.drawCount := rfl
@[simp] theorem State.emitFeedback_port (e : FeedbackEvent) : (s.emitFeedback e).port = s.port := rfl

/-! ### record -/

@[simp] theorem State.record_mode (c : Cause) : (s.record c).mode = s.mode := rfl
@[simp] theorem State.record_cfg (c : Cause) : (s.record c).cfg = s.cfg := rfl
@[simp] theorem State.record_crc16Table (c : Cause) : (s.record c).crc16Table = s.crc16Table := rfl
@[simp] theorem State.record_rxBuf (c : Cause) : (s.record c).rxBuf = s.rxBuf := rfl
@[simp] theorem State.record_nextTxSeq (c : Cause) : (s.record c).nextTxSeq = s.nextTxSeq := rfl
@[simp] theorem State.record_expectedRxSeq (c : Cause) : (s.record c).expectedRxSeq = s.expectedRxSeq := rfl
@[simp] theorem State.record_sw (c : Cause) : (s.record c).sw = s.sw := rfl
@[simp] theorem State.record_gbn (c : Cause) : (s.record c).gbn = s.gbn := rfl
@[simp] theorem State.record_txFreeAt (c : Cause) : (s.record c).txFreeAt = s.txFreeAt := rfl
@[simp] theorem State.record_clock (c : Cause) : (s.record c).clock = s.clock := rfl
@[simp] theorem State.record_txq (c : Cause) : (s.record c).txq = s.txq := rfl
@[simp] theorem State.record_ackq (c : Cause) : (s.record c).ackq = s.ackq := rfl
@[simp] theorem State.record_rxIn (c : Cause) : (s.record c).rxIn = s.rxIn := rfl
@[simp] theorem State.record_cnt (c : Cause) : (s.record c).cnt = s.cnt := rfl
@[simp] theorem State.record_txOut (c : Cause) : (s.record c).txOut = s.txOut := rfl
@[simp] theorem State.record_deliverOut (c : Cause) : (s.record c).deliverOut = s.deliverOut := rfl
@[simp] theorem State.record_feedbackOut (c : Cause) : (s.record c).feedbackOut = s.feedbackOut := rfl
@[simp] theorem State.record_result (c : Cause) : (s.record c).result = s.result := rfl
@[simp] theorem State.record_trace (c : Cause) : (s.record c).trace = s.trace ++ [c] := rfl
@[simp] theorem State.record_draws (c : Cause) : (s.record c).draws = s.draws := rfl
@[simp] theorem State.record_drawCount (c : Cause) : (s.record c).drawCount = s.drawCount := rfl
@[simp] theorem State.record_port (c : Cause) : (s.record c).port = s.port := rfl

/-! ### supplyDraws -/

@[simp] theorem State.supplyDraws_mode (ds : List Draw) : (s.supplyDraws ds).mode = s.mode := rfl
@[simp] theorem State.supplyDraws_cfg (ds : List Draw) : (s.supplyDraws ds).cfg = s.cfg := rfl
@[simp] theorem State.supplyDraws_crc16Table (ds : List Draw) : (s.supplyDraws ds).crc16Table = s.crc16Table := rfl
@[simp] theorem State.supplyDraws_rxBuf (ds : List Draw) : (s.supplyDraws ds).rxBuf = s.rxBuf := rfl
@[simp] theorem State.supplyDraws_nextTxSeq (ds : List Draw) : (s.supplyDraws ds).nextTxSeq = s.nextTxSeq := rfl
@[simp] theorem State.supplyDraws_expectedRxSeq (ds : List Draw) : (s.supplyDraws ds).expectedRxSeq = s.expectedRxSeq := rfl
@[simp] theorem State.supplyDraws_sw (ds : List Draw) : (s.supplyDraws ds).sw = s.sw := rfl
@[simp] theorem State.supplyDraws_gbn (ds : List Draw) : (s.supplyDraws ds).gbn = s.gbn := rfl
@[simp] theorem State.supplyDraws_txFreeAt (ds : List Draw) : (s.supplyDraws ds).txFreeAt = s.txFreeAt := rfl
@[simp] theorem State.supplyDraws_clock (ds : List Draw) : (s.supplyDraws ds).clock = s.clock := rfl
@[simp] theorem State.supplyDraws_txq (ds : List Draw) : (s.supplyDraws ds).txq = s.txq := rfl
@[simp] theorem State.supplyDraws_ackq (ds : List Draw) : (s.supplyDraws ds).ackq = s.ackq := rfl
@[simp] theorem State.supplyDraws_rxIn (ds : List Draw) : (s.supplyDraws ds).rxIn = s.rxIn := rfl
@[simp] theorem State.supplyDraws_cnt (ds : List Draw) : (s.supplyDraws ds).cnt = s.cnt := rfl
@[simp] theorem State.supplyDraws_txOut (ds : List Draw) : (s.supplyDraws ds).txOut = s.txOut := rfl
@[simp] theorem State.supplyDraws_deliverOut (ds : List Draw) : (s.supplyDraws ds).deliverOut = s.deliverOut := rfl
@[simp] theorem State.supplyDraws_feedbackOut (ds : List Draw) : (s.supplyDraws ds).feedbackOut = s.feedbackOut := rfl
@[simp] theorem State.supplyDraws_result (ds : List Draw) : (s.supplyDraws ds).result = s.result := rfl
@[simp] theorem State.supplyDraws_trace (ds : List Draw) : (s.supplyDraws ds).trace = s.trace := rfl
@[simp] theorem State.supplyDraws_draws (ds : List Draw) : (s.supplyDraws ds).draws = ds ++ s.draws := rfl
@[simp] theorem State.supplyDraws_drawCount (ds : List Draw) : (s.supplyDraws ds).drawCount = s.drawCount := rfl
@[simp] theorem State.supplyDraws_port (ds : List Draw) : (s.supplyDraws ds).port = s.port := rfl

/-! ### buildTable -/

@[simp] theorem State.buildTable_mode : s.buildTable.mode = s.mode := rfl
@[simp] theorem State.buildTable_cfg : s.buildTable.cfg = s.cfg := rfl
@[simp] theorem State.buildTable_crc16Table : s.buildTable.crc16Table = crc16Build := rfl
@[simp] theorem State.buildTable_rxBuf : s.buildTable.rxBuf = s.rxBuf := rfl
@[simp] theorem State.buildTable_nextTxSeq : s.buildTable.nextTxSeq = s.nextTxSeq := rfl
@[simp] theorem State.buildTable_expectedRxSeq : s.buildTable.expectedRxSeq = s.expectedRxSeq := rfl
@[simp] theorem State.buildTable_sw : s.buildTable.sw = s.sw := rfl
@[simp] theorem State.buildTable_gbn : s.buildTable.gbn = s.gbn := rfl
@[simp] theorem State.buildTable_txFreeAt : s.buildTable.txFreeAt = s.txFreeAt := rfl
@[simp] theorem State.buildTable_clock : s.buildTable.clock = s.clock := rfl
@[simp] theorem State.buildTable_txq : s.buildTable.txq = s.txq := rfl
@[simp] theorem State.buildTable_ackq : s.buildTable.ackq = s.ackq := rfl
@[simp] theorem State.buildTable_rxIn : s.buildTable.rxIn = s.rxIn := rfl
@[simp] theorem State.buildTable_cnt : s.buildTable.cnt = s.cnt := rfl
@[simp] theorem State.buildTable_txOut : s.buildTable.txOut = s.txOut := rfl
@[simp] theorem State.buildTable_deliverOut : s.buildTable.deliverOut = s.deliverOut := rfl
@[simp] theorem State.buildTable_feedbackOut : s.buildTable.feedbackOut = s.feedbackOut := rfl
@[simp] theorem State.buildTable_result : s.buildTable.result = s.result := rfl
@[simp] theorem State.buildTable_trace : s.buildTable.trace = s.trace := rfl
@[simp] theorem State.buildTable_draws : s.buildTable.draws = s.draws := rfl
@[simp] theorem State.buildTable_drawCount : s.buildTable.drawCount = s.drawCount := rfl
@[simp] theorem State.buildTable_port : s.buildTable.port = s.port := rfl

end Sys2Proof.Machine
end

