-- ==== Sys2Proof/Laws/Ops.lean ====
section
/-!
SUPPORT. One lemma for each shared operation that says what it can do: the maps, the buffers, the error entry, the
draws, the arbiter, the search for the sync word.
-/

namespace Sys2Proof.Machine

/-! ### Per-peer maps -/

@[simp] theorem peerGet_peerSet_self {α : Type} (m : PeerMap α) (k : Addr) (v : α) : peerGet (peerSet m k v) k = v := by
  simp [peerGet, peerSet]

theorem peerGet_peerSet_ne {α : Type} (m : PeerMap α) {k j : Addr} (v : α) (h : j ≠ k) :
    peerGet (peerSet m k v) j = peerGet m j := by
  have hne : k.toNat ≠ j.toNat := fun e => h (BitVec.eq_of_toNat_eq e.symm)
  simp [peerGet, peerSet, Vector.getElem_set_ne, hne]

theorem peerGet_peerSet {α : Type} (m : PeerMap α) (k j : Addr) (v : α) :
    peerGet (peerSet m k v) j = if j = k then v else peerGet m j := by
  split
  · next h => subst h; simp
  · next h => exact peerGet_peerSet_ne m v h

@[simp] theorem peerGet_replicate {α : Type} (v : α) (k : Addr) : peerGet (Vector.replicate 256 v) k = v := by
  simp [peerGet]

@[simp] theorem peerGet_map {α β : Type} (f : α → β) (m : PeerMap α) (k : Addr) :
    peerGet (m.map f) k = f (peerGet m k) := by
  simp [peerGet]

/-- Two maps that agree at every address are equal. -/
theorem peerMap_ext {α : Type} {m m' : PeerMap α} (h : ∀ k, peerGet m k = peerGet m' k) : m = m' := by
  apply Vector.ext
  intro i hi
  have e : (BitVec.ofNat 8 i).toNat = i := by simpa using hi
  have := h (BitVec.ofNat 8 i)
  simpa [peerGet, e] using this

/-- Writing back what a map holds changes nothing. -/
@[simp] theorem peerSet_peerGet {α : Type} (m : PeerMap α) (k : Addr) : peerSet m k (peerGet m k) = m := by
  apply peerMap_ext
  intro j
  rw [peerGet_peerSet]
  split
  · next h => rw [h]
  · rfl

/-- The later of two writes to one address stands. -/
@[simp] theorem peerSet_peerSet {α : Type} (m : PeerMap α) (k : Addr) (v w : α) :
    peerSet (peerSet m k v) k w = peerSet m k w := by
  apply peerMap_ext
  intro j
  simp only [peerGet_peerSet]
  split <;> rfl

/-- Writes to two addresses do not see each other (R66). -/
theorem peerSet_comm {α : Type} (m : PeerMap α) {k d : Addr} (v w : α) (h : k ≠ d) :
    peerSet (peerSet m k v) d w = peerSet (peerSet m d w) k v := by
  apply peerMap_ext
  intro j
  simp only [peerGet_peerSet]
  split <;> split <;> simp_all

/-! ### Buffers -/

/-- A buffer trimmed to its last byte holds at most one byte when it held any (R259). -/
theorem keepLastByte_length_le (buf : Bytes) : (keepLastByte buf).length ≤ 1 := by
  unfold keepLastByte memRead
  split
  · simp
  · omega

theorem keepLastByte_eq_getLast (buf : Bytes) (h : buf ≠ []) : keepLastByte buf = [buf.getLast h] := by
  unfold keepLastByte memRead
  split
  · rw [List.drop_length_sub_one h, List.take_of_length_le (by simp)]
  · next hl =>
    match buf, h, hl with
    | [a], _, _ => rfl
    | a :: b :: r, _, hl => simp at hl

@[simp] theorem keepLastByte_nil : keepLastByte [] = [] := rfl

theorem discardCount_eq (buf : Bytes) : discardCount buf = buf.length - 1 := by
  unfold discardCount keepLastByte memRead
  split
  · simp; omega
  · omega

/-- All but the last byte is dropped on `NO_SYNC` (R259, R291). -/
theorem keepLastByte_eq_drop (buf : Bytes) : keepLastByte buf = buf.drop (discardCount buf) := by
  rw [discardCount_eq]
  unfold keepLastByte memRead
  split
  · exact List.take_of_length_le (by simp; omega)
  · rw [show buf.length - 1 = 0 by omega, List.drop_zero]

/-! ### Errors -/

/-- Raising an error touches at most the receive buffer, the counters, the feedback channel and the response (R304). -/
theorem raise_frame (c : Cause) (s : State) :
    (raise c s).mode = s.mode ∧ (raise c s).cfg = s.cfg ∧ (raise c s).crc16Table = s.crc16Table ∧
      (raise c s).nextTxSeq = s.nextTxSeq ∧ (raise c s).expectedRxSeq = s.expectedRxSeq ∧ (raise c s).sw = s.sw ∧
      (raise c s).gbn = s.gbn ∧ (raise c s).txFreeAt = s.txFreeAt ∧ (raise c s).clock = s.clock ∧
      (raise c s).txq = s.txq ∧ (raise c s).ackq = s.ackq ∧ (raise c s).rxIn = s.rxIn ∧
      (raise c s).txOut = s.txOut ∧ (raise c s).deliverOut = s.deliverOut ∧
      (raise c s).trace = s.trace ++ [c] ∧ (raise c s).draws = s.draws ∧ (raise c s).drawCount = s.drawCount ∧
      (raise c s).port = s.port := by
  cases c <;> simp [raise, entryActions]

theorem raise_noSync (n : Nat) (s : State) :
    raise (.noSync n) s = { s with rxBuf := keepLastByte s.rxBuf, trace := s.trace ++ [.noSync n] } := rfl

theorem raise_crcMismatch (n : Nat) (s : State) :
    raise (.crcMismatch n) s = { s with cnt := s.cnt.inc .crcFail, trace := s.trace ++ [.crcMismatch n] } := rfl

theorem raise_ackWithPayload (s : State) :
    raise .ackWithPayload s = { s with cnt := s.cnt.inc .protoViolation, trace := s.trace ++ [.ackWithPayload] } := rfl

theorem raise_unknownType (s : State) :
    raise .unknownType s = { s with cnt := s.cnt.inc .protoViolation, trace := s.trace ++ [.unknownType] } := rfl

theorem raise_retryExhausted (d : Addr) (n : Seq) (s : State) :
    raise (.retryExhausted d n) s =
      { s with feedbackOut := s.feedbackOut ++ [⟨d, n, .failure⟩], trace := s.trace ++ [.retryExhausted d n] } := rfl

theorem raise_cfgClause (n : Nat) (s : State) :
    raise (.cfgClause n) s = { s with result := .errConfig, trace := s.trace ++ [.cfgClause n] } := rfl

theorem raise_payloadTooLong (s : State) :
    raise .payloadTooLong s = { s with result := .errPayloadTooLong, trace := s.trace ++ [.payloadTooLong] } := rfl

/-! ### Modes -/

/-- A host operation runs in the modes that accept it (R305). -/
theorem acceptedIn_mem {modes : List Mode} {s : State} (h : s.mode ∈ modes) (op : Answer) :
    acceptedIn modes s op = op := if_pos h

/-- A host operation is refused in the other modes (R305). -/
theorem acceptedIn_not_mem {modes : List Mode} {s : State} (h : s.mode ∉ modes) (op : Answer) :
    acceptedIn modes s op = .refused (.notAccepted s.mode) := if_neg h

/-- A profile B operation runs once the node is configured with the profile enabled (R305). -/
theorem profileBAccepted_enabled {s : State} (hm : s.mode ≠ .unconfigured) (hp : s.cfg.profileBEnable = true)
    (op : Answer) : profileBAccepted s op = op := by
  unfold profileBAccepted
  rw [acceptedIn_mem (by cases h : s.mode <;> simp_all), if_pos hp]

/-- A profile B operation is refused while the profile is disabled (U8). -/
theorem profileBAccepted_disabled {s : State} (hm : s.mode ≠ .unconfigured) (hp : s.cfg.profileBEnable = false)
    (op : Answer) : profileBAccepted s op = .refused .profileBDisabled := by
  unfold profileBAccepted
  rw [acceptedIn_mem (by cases h : s.mode <;> simp_all), if_neg (by simp [hp])]

/-- A profile B operation is refused before `CONFIG` (R305). -/
theorem profileBAccepted_unconfigured {s : State} (hm : s.mode = .unconfigured) (op : Answer) :
    profileBAccepted s op = .refused (.notAccepted .unconfigured) := by
  unfold profileBAccepted
  rw [acceptedIn_not_mem (by simp [hm]), hm]

/-! ### Draws -/

/-- A free draw is a draw, under a configuration whose interval is not empty (R241). -/
theorem freeDraw_legal (cfg : Cfg) (n : Nat) (hb : cfg.backoffMin ≤ cfg.backoffMax) :
    drawLegal cfg (freeDraw cfg n) = true := by
  have hm : Config.freeBackoff n % (cfg.backoffMax - cfg.backoffMin + 1) < cfg.backoffMax - cfg.backoffMin + 1 :=
    Nat.mod_lt _ (Nat.succ_pos _)
  have hx : cfg.alohaProb.isOne = true → cfg.alohaProb.isZero = false := by
    unfold Prob.isOne Prob.isZero
    simp only [Bool.and_eq_true, bne_iff_ne, beq_iff_eq, Bool.and_eq_false_iff, bne_eq_false_iff_eq]
    intro ⟨h1, h2⟩
    right
    simp [h2, h1]
  unfold drawLegal freeDraw
  simp only [Bool.and_eq_true, Bool.or_eq_true, Bool.not_eq_true', decide_eq_true_eq]
  refine ⟨⟨?_, ?_⟩, Or.inr ⟨Nat.le_add_right _ _, by omega⟩⟩
  · cases h : cfg.alohaProb.isOne <;> simp
  · cases h : cfg.alohaProb.isOne
    · cases h' : cfg.alohaProb.isZero <;> simp
    · left; exact hx h

/-- Taking a draw consumes supplied pairs from the front (R243). -/
theorem takeDraw_consumes (cfg : Cfg) (ds : List Draw) (n : Nat) :
    (takeDraw cfg ds n).2.1 <:+ ds ∧ n ≤ (takeDraw cfg ds n).2.2 := by
  induction ds with
  | nil => exact ⟨List.suffix_rfl, Nat.le_succ n⟩
  | cons d ds ih =>
    unfold takeDraw
    split
    · exact ⟨List.suffix_cons d ds, le_refl n⟩
    · exact ⟨ih.1.trans (List.suffix_cons d ds), ih.2⟩

/-- The draw taken is a draw (R241). -/
theorem takeDraw_legal (cfg : Cfg) (hb : cfg.backoffMin ≤ cfg.backoffMax) (ds : List Draw) (n : Nat) :
    drawLegal cfg (takeDraw cfg ds n).1 = true := by
  induction ds with
  | nil => exact freeDraw_legal cfg n hb
  | cons d ds ih =>
    unfold takeDraw
    split
    · next h => exact h
    · exact ih

/-- A supplied pair that is a draw is the one taken. -/
theorem takeDraw_cons_legal (cfg : Cfg) (d : Draw) (ds : List Draw) (n : Nat) (h : drawLegal cfg d = true) :
    takeDraw cfg (d :: ds) n = (d, ds, n) := by simp [takeDraw, h]

/-! ### The arbiter -/

/-- What one release leaves (R241, R243, R244): the emission time e, the draws left ds, the count of free draws n. -/
structure Sent (cfg : Cfg) (freeAt : Nat) (draws : List Draw) (count : Nat) (t e : Nat) (ds : List Draw) (n : Nat) :
    Prop where
  notEarly : t ≤ e
  inTurn : freeAt ≤ e
  consumed : ds <:+ draws
  counted : count ≤ n
  emitted : cfg.backoffMin ≤ cfg.backoffMax → EmittedAt cfg t freeAt e

/-- A legal draw gives an emission that R241 allows. -/
theorem emittedAt_of_legal {cfg : Cfg} {d : Draw} (t freeAt : Nat) (hb : cfg.backoffMin ≤ cfg.backoffMax)
    (h : drawLegal cfg d = true) : EmittedAt cfg t freeAt (emissionTime t freeAt d) := by
  simp only [drawLegal, Bool.and_eq_true, Bool.or_eq_true, Bool.not_eq_true', decide_eq_true_eq] at h
  obtain ⟨⟨h1, h2⟩, h3⟩ := h
  cases hg : d.go with
  | true =>
    refine ⟨true, cfg.backoffMin, fun _ => rfl, fun hz => ?_, le_refl _, hb, by simp [emissionTime, hg]⟩
    rw [hg, hz] at h2
    simp at h2
  | false =>
    refine ⟨false, d.delay, fun ho => ?_, fun _ => rfl, ?_, ?_, by simp [emissionTime, hg]⟩
    · rw [hg, ho] at h1
      simp at h1
    · rw [hg] at h3
      simpa using (h3.resolve_left (by simp)).1
    · rw [hg] at h3
      simpa using (h3.resolve_left (by simp)).2

/-- The bound of R244 on an emission time. -/
theorem EmittedAt.le {cfg : Cfg} {t freeAt e : Nat} (h : EmittedAt cfg t freeAt e) :
    t ≤ e ∧ freeAt ≤ e ∧ e ≤ max t freeAt + cfg.backoffMax := by
  obtain ⟨go, d, -, -, -, h2, rfl⟩ := h
  split <;> omega

/-- Everything `MAC.SEND` can do (R241): the frame goes out at the emission time, `tx_free_at` moves there, draws are
consumed, and nothing else changes. -/
theorem macSend_spec (frame : Bytes) (t : Nat) (s : State) :
    ∃ e ds n, macSend frame t s =
        (e, { s with txFreeAt := e, txOut := s.txOut ++ [⟨frame, e⟩], draws := ds, drawCount := n }) ∧
      Sent s.cfg s.txFreeAt s.draws s.drawCount t e ds n :=
  ⟨_, _, _, rfl, by simp only [emissionTime]; omega, by simp only [emissionTime]; omega,
    (takeDraw_consumes s.cfg s.draws s.drawCount).1, (takeDraw_consumes s.cfg s.draws s.drawCount).2,
    fun hb => emittedAt_of_legal t s.txFreeAt hb (takeDraw_legal s.cfg hb s.draws s.drawCount)⟩

/-! ### The sync search -/

/-- What a found index means: the two bytes stand there, and nowhere before (R13). -/
theorem find2_some {buf : Bytes} {a b : Byte} {i : Nat} (h : find2 buf a b = some i) :
    i + 1 < buf.length ∧ buf[i]? = some a ∧ buf[i + 1]? = some b ∧
      ∀ j, j < i → ¬ (buf[j]? = some a ∧ buf[j + 1]? = some b) := by
  induction buf generalizing i with
  | nil => simp [find2] at h
  | cons x rest ih =>
    cases rest with
    | nil => simp [find2] at h
    | cons y r =>
      unfold find2 at h
      split at h
      · next hxy =>
        obtain rfl : 0 = i := by simpa using h
        refine ⟨by simp, by simp [hxy.1], by simp [hxy.2], fun j hj => absurd hj (Nat.not_lt_zero j)⟩
      · next hxy =>
        obtain ⟨i', h', rfl⟩ : ∃ i', find2 (y :: r) a b = some i' ∧ i' + 1 = i := by simpa using h
        obtain ⟨h1, h2, h3, h4⟩ := ih h'
        refine ⟨by simp only [List.length_cons] at h1 ⊢; omega, by simpa using h2, by simpa using h3, ?_⟩
        intro j hj
        cases j with
        | zero => simpa using hxy
        | succ j => simpa using h4 j (by omega)

/-- No found index means the two bytes stand nowhere. -/
theorem find2_none {buf : Bytes} {a b : Byte} (h : find2 buf a b = none) (j : Nat) :
    ¬ (buf[j]? = some a ∧ buf[j + 1]? = some b) := by
  induction buf generalizing j with
  | nil => simp
  | cons x rest ih =>
    cases rest with
    | nil => cases j <;> simp
    | cons y r =>
      unfold find2 at h
      split at h
      · simp at h
      · next hxy =>
        have h' : find2 (y :: r) a b = none := by simpa using h
        cases j with
        | zero => simpa using hxy
        | succ j => simpa using ih h' j

/-- The sync word is found inside the buffer. -/
theorem findSync_lt {cfg : Cfg} {buf : Bytes} {i : Nat} (h : findSync cfg buf = some i) : i + 1 < buf.length := by
  unfold findSync at h
  split at h
  · exact (find2_some h).1
  · simp at h

/-- A buffer of at most one byte holds no sync word. -/
theorem findSync_short {cfg : Cfg} {buf : Bytes} (h : buf.length ≤ 1) : findSync cfg buf = none := by
  cases e : findSync cfg buf with
  | none => rfl
  | some i => have := findSync_lt e; omega

/-! ### The decoder -/

/-- The bytes an outcome of `FRAME.DECODE` names (R155): at least one, at most the buffer. -/
theorem decodeOutcome_bounds (cfg : Cfg) (table : Vector U16 256) (buf : Bytes) :
    match decodeOutcome cfg table buf with
    | .noSync => findSync cfg buf = none
    | .incomplete => True
    | .rejected n => 1 ≤ n ∧ n ≤ buf.length
    | .frame f n => 9 ≤ n ∧ n ≤ buf.length ∧ f.payload.length ≤ 255 := by
  unfold decodeOutcome
  cases e : findSync cfg buf with
  | none => rfl
  | some i =>
    simp only
    by_cases h1 : buf.length < i + 9
    · simp [h1]
    · simp only [h1, if_false]
      by_cases h2 : buf.length < i + 9 + (memByte buf (i + 6)).toNat
      · simp [h2]
      · simp only [h2, if_false]
        have hb := (memByte buf (i + 6)).isLt
        unfold checkCandidate
        split
        · next hf =>
          split at hf
          · simp at hf
          · split at hf <;> simp at hf
        · trivial
        · next n hn =>
          split at hn
          · simp at hn
          · split at hn <;> simp only [DecodeOutcome.rejected.injEq] at hn <;> omega
        · next f n hf =>
          split at hf
          · simp only [DecodeOutcome.frame.injEq] at hf
            obtain ⟨rfl, rfl⟩ := hf
            refine ⟨by omega, by omega, ?_⟩
            simp only [memRead, List.length_take]
            omega
          · split at hf <;> simp at hf

/-- What `FRAME.DECODE` leaves of the state (R67): a rejection is counted and recorded with its discard count. -/
theorem decodeFrame_state (buf : Bytes) (s : State) :
    (decodeFrame buf s).2 = s ∨ ∃ n, (decodeFrame buf s).1 = .rejected n ∧
      (decodeFrame buf s).2 = { s with cnt := s.cnt.inc .crcFail, trace := s.trace ++ [.crcMismatch n] } := by
  unfold decodeFrame noteOutcome
  simp only
  split
  · next n h => exact .inr ⟨n, h, rfl⟩
  all_goals exact .inl rfl

end Sys2Proof.Machine
end

