-- ==== Sys2Proof/Laws/Crc.lean ====
section
/-!
SUPPORT. What the proofs about the CRC Engine cite (spec/40_crc.md): bit strings and their values, the table of R132, the
linearity of the CRC-16 shift, and the CRC-32 division loop as a sweep over the bit positions from the highest down.
-/

namespace Sys2Proof

/-! ### Bit strings (R12) -/

theorem bitsVal_foldl (acc : Nat) (b : Bits) :
    b.foldl (fun acc x => 2 * acc + x.toNat) acc = acc * 2 ^ b.length + bitsVal b := by
  induction b generalizing acc with
  | nil => simp [bitsVal]
  | cons x b ih =>
    unfold bitsVal
    simp only [List.foldl_cons, List.length_cons, Nat.pow_succ]
    rw [ih, ih (2 * 0 + x.toNat)]
    ring

@[simp] theorem bitsVal_nil : bitsVal [] = 0 := rfl

@[simp] theorem bitsVal_cons (x : Bool) (b : Bits) : bitsVal (x :: b) = x.toNat * 2 ^ b.length + bitsVal b := by
  show b.foldl (fun acc x => 2 * acc + x.toNat) (2 * 0 + x.toNat) = _
  rw [bitsVal_foldl, Nat.mul_zero, Nat.zero_add]

/-- The value of a concatenation. -/
theorem bitsVal_append (a b : Bits) : bitsVal (a ++ b) = bitsVal a * 2 ^ b.length + bitsVal b := by
  show (a ++ b).foldl (fun acc x => 2 * acc + x.toNat) 0 = _
  rw [List.foldl_append, bitsVal_foldl]
  rfl

@[simp] theorem bitsVal_zeros (n : Nat) : bitsVal (List.replicate n false) = 0 := by
  induction n with
  | zero => rfl
  | succ n ih => rw [List.replicate_succ, bitsVal_cons, ih]; simp

/-- A bit string writes a number below 2 to its length. -/
theorem bitsVal_lt (b : Bits) : bitsVal b < 2 ^ b.length := by
  induction b with
  | nil => simp
  | cons x b ih =>
    rw [bitsVal_cons, List.length_cons, Nat.pow_succ]
    cases x <;> simp <;> omega

/-- Only an all-zero string writes 0. -/
theorem bitsVal_eq_zero (b : Bits) : bitsVal b = 0 ↔ b = List.replicate b.length false := by
  induction b with
  | nil => simp
  | cons x b ih =>
    rw [bitsVal_cons, List.length_cons, List.replicate_succ]
    have hp : 0 < 2 ^ b.length := Nat.two_pow_pos _
    cases x
    · simpa using ih
    · simp

@[simp] theorem binW_length (w v : Nat) : (binW w v).length = w := by
  induction w with
  | zero => rfl
  | succ w ih => simp [binW, ih]

/-- `bin_W` writes the value modulo 2 to the W. -/
theorem bitsVal_binW (w v : Nat) : bitsVal (binW w v) = v % 2 ^ w := by
  induction w with
  | zero => simp [binW, Nat.mod_one]
  | succ w ih =>
    rw [binW, bitsVal_cons, ih, binW_length, Nat.mod_pow_succ, Nat.testBit_eq_decide_div_mod_eq]
    rcases Nat.mod_two_eq_zero_or_one (v / 2 ^ w) with h | h <;> simp [h, Nat.add_comm]

/-- A value that fits comes back. -/
theorem bitsVal_binW_of_lt {w v : Nat} (h : v < 2 ^ w) : bitsVal (binW w v) = v := by
  rw [bitsVal_binW, Nat.mod_eq_of_lt h]

/-- A bit string is the one its value writes in its length. -/
theorem binW_bitsVal (b : Bits) : binW b.length (bitsVal b) = b := by
  induction b with
  | nil => rfl
  | cons x b ih =>
    have hlt := bitsVal_lt b
    rw [List.length_cons, binW]
    have key : ∀ (w k v : Nat), binW w (k * 2 ^ w + v) = binW w v := by
      intro w
      induction w with
      | zero => intros; rfl
      | succ w ih' =>
        intro k v
        rw [binW, binW]
        have e : k * 2 ^ (w + 1) + v = 2 * k * 2 ^ w + v := by rw [Nat.pow_succ]; ring
        rw [e, ih' (2 * k) v, ← e]
        congr 1
        rw [Nat.testBit_eq_decide_div_mod_eq, Nat.testBit_eq_decide_div_mod_eq, e, Nat.add_comm,
          Nat.add_mul_div_right _ _ (Nat.two_pow_pos w)]
        congr 2
        omega
    rw [bitsVal_cons, key, ih]
    congr 1
    rw [Nat.testBit_eq_decide_div_mod_eq, Nat.add_comm, Nat.add_mul_div_right _ _ (Nat.two_pow_pos _),
      Nat.div_eq_of_lt hlt]
    cases x <;> rfl

/-- `bitlen` bounds a number from above (R12). -/
theorem bitlen_le_iff (v k : Nat) : bitlen v ≤ k ↔ v < 2 ^ k := by
  unfold bitlen
  split
  · next h => subst h; simp
  · next h => rw [← Nat.log2_lt h]; omega

end Sys2Proof

namespace Sys2Proof.Machine

/-! ### CRC-16 -/

/-- The loop of R131 writes the constants of R132. -/
theorem crc16Build_eq : crc16Build = crc16TableConst := by decide +kernel

/-- Every entry of the table is the division of its leading byte (R131). -/
theorem peerGet_crc16TableConst (i : Byte) : peerGet crc16TableConst i = crc16Shift8 (i.setWidth 16 <<< 8) := by
  rw [← crc16Build_eq]
  simp only [peerGet, crc16Build, Vector.getElem_mk, List.getElem_toArray, List.getElem_map, List.getElem_range, crc16Entry]
  congr 2
  apply BitVec.eq_of_toNat_eq
  simp

/-- One shift is linear (R134). -/
theorem crc16Shift_xor (a b : U16) : crc16Shift (a ^^^ b) = crc16Shift a ^^^ crc16Shift b := by
  unfold crc16Shift
  rw [BitVec.msb_xor, BitVec.shiftLeft_xor_distrib]
  generalize a <<< 1 = x, b <<< 1 = y, crc16Poly = p
  cases a.msb <;> cases b.msb <;>
    simp only [Bool.xor_false, Bool.xor_true, Bool.not_true, Bool.not_false, Bool.false_eq_true, if_true, if_false]
  · rw [BitVec.xor_assoc]
  · rw [BitVec.xor_assoc, BitVec.xor_assoc, BitVec.xor_comm y]
  · rw [BitVec.xor_comm y, BitVec.xor_assoc, ← BitVec.xor_assoc p, BitVec.xor_self, BitVec.zero_xor]

/-- Eight shifts are linear (R134). -/
theorem crc16Shift8_xor (a b : U16) : crc16Shift8 (a ^^^ b) = crc16Shift8 a ^^^ crc16Shift8 b := by
  simp only [crc16Shift8, crc16Shift_xor]

/-- Eight shifts of a register whose high byte is empty only move its low byte up. -/
theorem crc16Shift8_low (b : Byte) : crc16Shift8 (b.setWidth 16) = b.setWidth 16 <<< 8 := by
  revert b
  decide +kernel

/-- One byte of the table form is eight bit-serial shifts of the register with the byte added at the top (R134). -/
theorem crc16Step_serial (c : U16) (b : Byte) : crc16Step crc16TableConst c b = crc16Shift8 (c ^^^ (b.setWidth 16 <<< 8)) := by
  unfold crc16Step
  rw [peerGet_crc16TableConst]
  have h1 : c ^^^ (b.setWidth 16 <<< 8) = ((c.extractLsb' 8 8 ^^^ b).setWidth 16 <<< 8) ^^^ ((c.setWidth 8).setWidth 16) := by
    apply BitVec.eq_of_getLsbD_eq
    intro i hi
    simp only [BitVec.getLsbD_xor, BitVec.getLsbD_shiftLeft, BitVec.getLsbD_setWidth, BitVec.getLsbD_extractLsb']
    by_cases h8 : i < 8
    · simp [h8, hi]
    · have : i - 8 < 8 := by omega
      have h16 : i - 8 < 16 := by omega
      simp [h8, hi, this, h16, show 8 + (i - 8) = i by omega]
  rw [h1, crc16Shift8_xor, crc16Shift8_low, BitVec.xor_comm]
  congr 1
  apply BitVec.eq_of_getLsbD_eq
  intro i hi
  simp only [BitVec.getLsbD_shiftLeft, BitVec.getLsbD_setWidth]
  by_cases h8 : i < 8
  · simp [h8]
  · have : i - 8 < 8 := by omega
    have h16 : i - 8 < 16 := by omega
    simp [h8, this, h16]

/-! ### CRC-32 -/

/-- The generator taken off at one position, if the bit there is set. -/
def sweepStep (n v : Nat) : Nat := if v.testBit (n + 32) then v ^^^ (crc32Poly <<< n) else v

/-- The positions n-1 down to 0 swept: the division loop of R137, with its shifts written down. -/
def sweep : Nat → Nat → Nat
  | 0, v => v
  | n + 1, v => sweep n (sweepStep n v)

theorem sweepStep_xor (n a b : Nat) : sweepStep n (a ^^^ b) = sweepStep n a ^^^ sweepStep n b := by
  unfold sweepStep
  rw [Nat.testBit_xor]
  cases a.testBit (n + 32) <;> cases b.testBit (n + 32) <;>
    simp only [Bool.xor_false, Bool.xor_true, Bool.not_true, Bool.not_false, Bool.false_eq_true, if_true, if_false]
  · rw [Nat.xor_assoc]
  · rw [Nat.xor_assoc, Nat.xor_assoc, Nat.xor_comm b]
  · rw [Nat.xor_comm b, Nat.xor_assoc, ← Nat.xor_assoc (crc32Poly <<< n), Nat.xor_self, Nat.zero_xor]

/-- The sweep is linear (R138). -/
theorem sweep_xor (n a b : Nat) : sweep n (a ^^^ b) = sweep n a ^^^ sweep n b := by
  induction n generalizing a b with
  | zero => rfl
  | succ n ih => rw [sweep, sweep, sweep, sweepStep_xor, ih]

theorem crc32Poly_testBit_32 : crc32Poly.testBit 32 = true := by decide

theorem crc32Poly_lt : crc32Poly < 2 ^ 33 := by decide

theorem sweepStep_lt {n v : Nat} (h : v < 2 ^ (n + 33)) : sweepStep n v < 2 ^ (n + 32) := by
  unfold sweepStep
  apply Nat.lt_pow_two_of_testBit
  intro i hi
  have hv : n + 33 ≤ i → v.testBit i = false := fun hle =>
    Nat.testBit_lt_two_pow (Nat.lt_of_lt_of_le h (Nat.pow_le_pow_right (by omega) hle))
  have hp : n + 33 ≤ i → (crc32Poly <<< n).testBit i = false := fun hle => by
    rw [Nat.testBit_shiftLeft, Nat.testBit_lt_two_pow (Nat.lt_of_lt_of_le crc32Poly_lt (Nat.pow_le_pow_right (by omega) (by omega))),
      Bool.and_false]
  have hp' : (crc32Poly <<< n).testBit (n + 32) = true := by
    rw [Nat.testBit_shiftLeft, show n + 32 - n = 32 by omega, crc32Poly_testBit_32]
    simp
  rcases Nat.lt_or_ge i (n + 33) with hlt | hge
  · have he : i = n + 32 := by omega
    subst he
    split
    · next ht => rw [Nat.testBit_xor, ht, hp']; rfl
    · next ht => simpa using ht
  · split
    · rw [Nat.testBit_xor, hv hge, hp hge]; rfl
    · exact hv hge

/-- A sweep from high enough leaves 32 bits. -/
theorem sweep_lt {n v : Nat} (h : v < 2 ^ (n + 32)) : sweep n v < 2 ^ 32 := by
  induction n generalizing v with
  | zero => simpa [sweep] using h
  | succ n ih => exact ih (sweepStep_lt (by rw [show n + 33 = n + 1 + 32 by omega]; exact h))

theorem sweepStep_small {n v : Nat} (h : v < 2 ^ (n + 32)) : sweepStep n v = v := by
  unfold sweepStep
  rw [Nat.testBit_lt_two_pow h]
  simp

/-- What fits 32 bits is its own remainder. -/
theorem sweep_small {n v : Nat} (h : v < 2 ^ 32) : sweep n v = v := by
  induction n with
  | zero => rfl
  | succ n ih =>
    rw [sweep, sweepStep_small (Nat.lt_of_lt_of_le h (Nat.pow_le_pow_right (by omega) (by omega))), ih]

/-- A shifted copy of the generator within the sweep leaves nothing. -/
theorem sweep_poly {n k : Nat} (h : k < n) : sweep n (crc32Poly <<< k) = 0 := by
  induction n with
  | zero => omega
  | succ n ih =>
    rw [sweep]
    rcases Nat.lt_or_ge k n with hlt | hge
    · rw [sweepStep_small, ih hlt]
      rw [Nat.shiftLeft_eq]
      calc crc32Poly * 2 ^ k < 2 ^ 33 * 2 ^ k := Nat.mul_lt_mul_of_pos_right crc32Poly_lt (Nat.two_pow_pos k)
        _ = 2 ^ (33 + k) := (Nat.pow_add 2 33 k).symm
        _ ≤ 2 ^ (n + 32) := Nat.pow_le_pow_right (by omega) (by omega)
    · have he : k = n := by omega
      subst he
      have : sweepStep k (crc32Poly <<< k) = 0 := by
        unfold sweepStep
        rw [Nat.testBit_shiftLeft, show k + 32 - k = 32 by omega, crc32Poly_testBit_32]
        simp
      rw [this]
      exact sweep_small (by decide)

/-- Sums of multiples are multiples. -/
theorem Crc32Multiple.xor {a b : Nat} (ha : Crc32Multiple a) (hb : Crc32Multiple b) : Crc32Multiple (a ^^^ b) := by
  induction ha with
  | zero => rw [Nat.zero_xor]; exact hb
  | add v k _ ih =>
    have e : v ^^^ (0x104C11DB7 <<< k) ^^^ b = v ^^^ b ^^^ (0x104C11DB7 <<< k) := by
      rw [Nat.xor_assoc, Nat.xor_comm (0x104C11DB7 <<< k) b, ← Nat.xor_assoc]
    rw [e]
    exact .add _ k ih

/-- A sweep takes off a multiple of the generator. -/
theorem sweep_multiple (n v : Nat) : Crc32Multiple (v ^^^ sweep n v) := by
  induction n generalizing v with
  | zero => rw [sweep, Nat.xor_self]; exact .zero
  | succ n ih =>
    rw [sweep]
    have e : v ^^^ sweep n (sweepStep n v) = (v ^^^ sweepStep n v) ^^^ (sweepStep n v ^^^ sweep n (sweepStep n v)) := by
      rw [Nat.xor_assoc, ← Nat.xor_assoc (sweepStep n v) (sweepStep n v), Nat.xor_self, Nat.zero_xor]
    rw [e]
    refine Crc32Multiple.xor ?_ (ih _)
    unfold sweepStep
    split
    · rw [← Nat.xor_assoc, Nat.xor_self]
      exact .add 0 n .zero
    · rw [Nat.xor_self]; exact .zero

/-- A sweep from higher up finds nothing more. -/
theorem sweep_le {n m v : Nat} (h : v < 2 ^ (n + 32)) (hm : n ≤ m) : sweep m v = sweep n v := by
  induction m with
  | zero =>
    have : n = 0 := by omega
    rw [this]
  | succ m ih =>
    rcases Nat.lt_or_ge n (m + 1) with hlt | hge
    · rw [sweep, sweepStep_small (Nat.lt_of_lt_of_le h (Nat.pow_le_pow_right (by omega) (by omega))), ih (by omega)]
    · have : n = m + 1 := by omega
      rw [this]

/-- The division loop with fuel enough is the sweep (R137). -/
theorem crc32Loop_eq_sweep {n fuel v : Nat} (h : v < 2 ^ (n + 32)) (hf : n ≤ fuel) : crc32Loop fuel v = sweep n v := by
  induction n generalizing fuel v with
  | zero =>
    have hb : ¬ 33 ≤ bitlen v := by
      have := (bitlen_le_iff v 32).mpr (by simpa using h)
      omega
    cases fuel with
    | zero => rfl
    | succ fuel => rw [crc32Loop, if_neg hb, sweep]
  | succ n ih =>
    rw [sweep]
    by_cases ht : v.testBit (n + 32) = true
    · have h1 : bitlen v ≤ n + 33 := (bitlen_le_iff v (n + 33)).mpr (by rw [show n + 33 = n + 1 + 32 by omega]; exact h)
      have h2 : ¬ bitlen v ≤ n + 32 := fun hle => by
        rw [Nat.testBit_lt_two_pow ((bitlen_le_iff v (n + 32)).mp hle)] at ht
        simp at ht
      have hb : bitlen v = n + 33 := by omega
      cases fuel with
      | zero => omega
      | succ fuel =>
        have hs : sweepStep n v = v ^^^ (crc32Poly <<< n) := by unfold sweepStep; rw [if_pos ht]
        rw [crc32Loop, if_pos (by omega), hb, show n + 33 - 33 = n by omega, ← hs]
        exact ih (sweepStep_lt (by rw [show n + 33 = n + 1 + 32 by omega]; exact h)) (by omega)
    · have hlt : v < 2 ^ (n + 32) := by
        apply Nat.lt_pow_two_of_testBit
        intro i hi
        rcases Nat.lt_or_ge i (n + 33) with hlt | hge
        · have he : i = n + 32 := by omega
          subst he
          simpa using ht
        · exact Nat.testBit_lt_two_pow (Nat.lt_of_lt_of_le h (Nat.pow_le_pow_right (by omega) (by omega)))
      rw [sweepStep_small hlt]
      exact ih hlt (by omega)

/-- The remainder of R137 as a sweep over the value with 32 zeros appended, from the string's length or higher. -/
theorem crc32RemOf_eq_sweep (bits : Bits) {n : Nat} (hn : bits.length ≤ n) :
    crc32RemOf bits = sweep n (bitsVal bits * 2 ^ 32) := by
  have hlt : bitsVal bits * 2 ^ 32 < 2 ^ (bits.length + 32) := by
    rw [Nat.pow_add]
    exact Nat.mul_lt_mul_of_pos_right (bitsVal_lt bits) (by decide)
  have hv : bitsVal (bits ++ List.replicate 32 false) = bitsVal bits * 2 ^ 32 := by
    rw [bitsVal_append, bitsVal_zeros, List.length_replicate, Nat.add_zero]
  unfold crc32RemOf
  rw [hv, crc32Loop_eq_sweep hlt (le_refl _), sweep_le hlt hn]

/-- A remainder fits 32 bits (R137). -/
theorem crc32RemOf_lt (bits : Bits) : crc32RemOf bits < 2 ^ 32 := by
  rw [crc32RemOf_eq_sweep bits (le_refl _)]
  apply sweep_lt
  rw [Nat.pow_add]
  exact Nat.mul_lt_mul_of_pos_right (bitsVal_lt bits) (by decide)

@[simp] theorem crc32GenOf_length (bits : Bits) : (crc32GenOf bits).length = 32 := binW_length 32 _

/-- The generated bits write the remainder (R141). -/
theorem bitsVal_crc32GenOf (bits : Bits) : bitsVal (crc32GenOf bits) = crc32RemOf bits :=
  bitsVal_binW_of_lt (crc32RemOf_lt bits)

/-! ### Multiples of the CRC-32 generator -/

/-- A sweep from high enough leaves nothing of a multiple. -/
theorem Crc32Multiple.sweep_eq_zero {v : Nat} (h : Crc32Multiple v) : ∃ n, ∀ m, n ≤ m → sweep m v = 0 := by
  induction h with
  | zero => exact ⟨0, fun m _ => sweep_small (by decide)⟩
  | add v k _ ih =>
    obtain ⟨n, hn⟩ := ih
    refine ⟨max n (k+1), fun m hm => ?_⟩
    rw [sweep_xor, hn m (by omega)]
    have := sweep_poly (n := m) (k := k) (by omega)
    unfold crc32Poly at this
    rw [this]; rfl

/-- Only 0 is a multiple and fits 32 bits. -/
theorem Crc32Multiple.eq_zero_of_lt {v : Nat} (h : Crc32Multiple v) (hv : v < 2 ^ 32) : v = 0 := by
  obtain ⟨n, hn⟩ := h.sweep_eq_zero
  rw [← hn n (le_refl _), sweep_small hv]

/-- Exactly the multiples leave no remainder (R138). -/
theorem crc32Multiple_iff_sweep {v n : Nat} (hv : v < 2 ^ (n + 32)) : Crc32Multiple v ↔ sweep n v = 0 := by
  constructor
  · intro h
    obtain ⟨m, hm⟩ := h.sweep_eq_zero
    rw [← sweep_le hv (Nat.le_max_left n m), hm _ (Nat.le_max_right n m)]
  · intro h
    have := sweep_multiple n v
    rwa [h, Nat.xor_zero] at this

/-- A shifted multiple is a multiple. -/
theorem Crc32Multiple.shiftLeft {v : Nat} (h : Crc32Multiple v) (j : Nat) : Crc32Multiple (v <<< j) := by
  induction h with
  | zero => rw [Nat.zero_shiftLeft]; exact .zero
  | add v k _ ih =>
    rw [Nat.shiftLeft_xor_distrib, ← Nat.shiftLeft_add]
    exact .add _ _ ih

/-- The generator is odd, so an even multiple can be halved. -/
theorem Crc32Multiple.half {v : Nat} (h : Crc32Multiple v) : (v % 2 = 0 → Crc32Multiple (v / 2)) ∧ (v % 2 = 1 → Crc32Multiple ((v ^^^ 0x104C11DB7) / 2)) := by
  induction h with
  | zero => exact ⟨fun _ => .zero, fun h => by simp at h⟩
  | add v k hv ih =>
    have hx : ∀ a b : Nat, (a ^^^ b) / 2 = a / 2 ^^^ b / 2 := fun a b => by
      have := Nat.shiftRight_xor_distrib (a := a) (b := b) (i := 1)
      simpa [Nat.shiftRight_one] using this
    have hm : ∀ a b : Nat, (a ^^^ b) % 2 = (a % 2 + b % 2) % 2 := fun a b => by
      have := @Nat.xor_mod_two_eq a b
      omega
    cases k with
    | zero =>
      simp only [Nat.shiftLeft_zero, hm, hx]
      constructor
      · intro h
        have h1 : v % 2 = 1 := by omega
        have := ih.2 h1
        rwa [hx] at this
      · intro h
        have h1 : v % 2 = 0 := by omega
        have := ih.1 h1
        rw [Nat.xor_assoc, Nat.xor_self, Nat.xor_zero]; exact this
    | succ k =>
      have e : (0x104C11DB7 <<< (k+1)) % 2 = 0 := by rw [Nat.shiftLeft_succ]; omega
      have e2 : (0x104C11DB7 <<< (k+1)) / 2 = 0x104C11DB7 <<< k := by rw [Nat.shiftLeft_succ]; omega
      simp only [hm, hx, e, e2]
      constructor
      · intro h
        exact .add _ k (ih.1 (by omega))
      · intro h
        have := ih.2 (by omega)
        rw [hx] at this
        have q := Crc32Multiple.add _ k this
        rw [Nat.xor_assoc, Nat.xor_comm (_ <<< _), ← Nat.xor_assoc]; exact q

/-- Zero bits at the end do not make a multiple (R138). -/
theorem Crc32Multiple.of_shiftLeft {v : Nat} (j : Nat) (h : Crc32Multiple (v <<< j)) : Crc32Multiple v := by
  induction j with
  | zero => simpa using h
  | succ j ih =>
    apply ih
    have := (h.half).1 (by rw [Nat.shiftLeft_succ]; omega)
    rwa [Nat.shiftLeft_succ, Nat.mul_div_cancel_left _ (by decide)] at this

/-- Numbers below 2 to the 32 are added to a shifted one without carries. -/
theorem shift_add_eq_xor (v : Nat) {r : Nat} (hr : r < 2 ^ 32) : v * 2 ^ 32 + r = (v * 2 ^ 32) ^^^ r := by
  rw [← Nat.shiftLeft_eq, Nat.shiftLeft_add_eq_or_of_lt hr]
  apply Nat.eq_of_testBit_eq
  intro i
  rw [Nat.testBit_or, Nat.testBit_xor, Nat.testBit_shiftLeft]
  by_cases hi : 32 ≤ i
  · rw [Nat.testBit_lt_two_pow (Nat.lt_of_lt_of_le hr (Nat.pow_le_pow_right (by omega) hi))]; simp
  · simp [hi]

end Sys2Proof.Machine
end

