-- ==== Sys2Proof/Laws/Decode.lean ====
section
/-!
SUPPORT. Every operand parser reads back what its encoder wrote, whatever follows (log 2), and so does the parser that
runs one after another.
-/

namespace Sys2Proof

/-- A parser reads x from these bytes and leaves what follows them. -/
def Reads {α : Type} (p : Parser α) (bs : Bytes) (x : α) : Prop := ∀ rest, p (bs ++ rest) = .ok (x, rest)

theorem Reads.pure {α : Type} (x : α) : Reads (Pure.pure x : Parser α) [] x := fun _ => rfl

/-- One parser after another. -/
theorem Reads.bind {α β : Type} {p : Parser α} {f : α → Parser β} {bs cs : Bytes} {x : α} {y : β} (h : Reads p bs x)
    (h' : Reads (f x) cs y) : Reads (p >>= f) (bs ++ cs) y := by
  intro rest
  show (p ((bs ++ cs) ++ rest) >>= fun r => f r.1 r.2) = _
  rw [List.append_assoc, h]
  exact h' rest

/-- A parser, and then a value built from what it read. -/
theorem Reads.map {α β : Type} {p : Parser α} {g : α → β} {bs : Bytes} {x : α} (h : Reads p bs x) :
    Reads (p >>= fun a => Pure.pure (g a)) bs (g x) := by
  have := h.bind (f := fun a => Pure.pure (g a)) (Reads.pure (g x))
  rwa [List.append_nil] at this

theorem getByte_reads (b : Byte) : Reads getByte [b] b := fun _ => rfl

theorem getBool_reads (b : Bool) : Reads getBool [boolByte b] b := by
  intro rest
  cases b <;> rfl

theorem decNat_encNatFuel (f n : Nat) (rest : Bytes) (h : n ≤ f ∨ n < 128) :
    decNat (encNatFuel f n ++ rest) = .ok (n, rest) := by
  induction f generalizing n with
  | zero =>
    have hn : n < 128 := by omega
    have e : (BitVec.ofNat 8 n).toNat = n := by simp; omega
    simp only [encNatFuel, List.cons_append, List.nil_append, decNat, e, if_pos hn]
  | succ f ih =>
    unfold encNatFuel
    split
    · next hn =>
      have e : (BitVec.ofNat 8 n).toNat = n := by simp; omega
      simp only [List.cons_append, List.nil_append, decNat, e, if_pos hn]
    · next hn =>
      have e : (BitVec.ofNat 8 (128 + n % 128)).toNat = 128 + n % 128 := by simp; omega
      simp only [List.cons_append, decNat, e]
      rw [if_neg (by omega), ih (n / 128) (by omega)]
      simp only [Except.ok.injEq, Prod.mk.injEq, and_true]
      omega

theorem getNat_reads (n : Nat) : Reads getNat (encNat n) n := fun rest => decNat_encNatFuel n n rest (.inl (le_refl n))

theorem takeBytes_reads (b : Bytes) : Reads (takeBytes b.length) b b := by
  intro rest
  simp [takeBytes]

theorem getBytes_reads (b : Bytes) : Reads getBytes (encBytes b) b := (getNat_reads b.length).bind (takeBytes_reads b)

/-- Items one after another. -/
theorem getMany_reads {α : Type} {p : Parser α} {enc : α → Bytes} (h : ∀ x, Reads p (enc x) x) (xs : List α) :
    Reads (getMany p xs.length) (xs.flatMap enc) xs := by
  induction xs with
  | nil => exact Reads.pure []
  | cons x xs ih => exact (h x).bind (ih.map (g := fun as => x :: as))

theorem getBits_reads (b : Bits) : Reads getBits (encBits b) b := by
  have e : b.map boolByte = b.flatMap (fun x => [boolByte x]) := by
    induction b with
    | nil => rfl
    | cons x b ih => simp [ih]
  have h := (getNat_reads b.length).bind (getMany_reads getBool_reads b)
  rw [← e] at h
  exact h

theorem getU16_reads (c : U16) : Reads getU16 (encU16 c) c := by
  intro rest
  have e : (c.extractLsb' 8 8 ++ c.extractLsb' 0 8 : U16) = c := by
    apply BitVec.eq_of_getLsbD_eq
    intro i hi
    rw [BitVec.getLsbD_append]
    split
    · next h => simp [h]
    · next h => simp; rw [show 8 + (i - 8) = i by omega]; simp; omega
  show Except.ok ((c.extractLsb' 8 8 ++ c.extractLsb' 0 8 : U16), rest) = _
  rw [e]

theorem getDraw_reads (d : Draw) : Reads getDraw (encDraw d) d :=
  (getBool_reads d.go).bind ((getNat_reads d.delay).map (g := fun n => Draw.mk d.go n))

theorem getDraws_reads (ds : List Draw) : Reads getDraws (encDraws ds) ds :=
  (getNat_reads ds.length).bind (getMany_reads getDraw_reads ds)

theorem getFrame_reads (f : Frame) : Reads getFrame (encFrame f) f :=
  (getByte_reads f.src).bind ((getByte_reads f.dst).bind ((getByte_reads f.seq).bind ((getByte_reads f.ty).bind
    ((getBytes_reads f.payload).map (g := fun p => Frame.mk f.src f.dst f.seq f.ty p)))))

theorem getCfgRequest_reads (r : CfgRequest) : Reads getCfgRequest (encCfgRequest r) r := by
  have e : encCfgRequest r = [r.nodeAddr] ++ ([r.arqMode] ++ (encNat r.windowSize ++ (encNat r.maxRetries ++
      (encNat r.arqTimeout ++ (encNat r.pollInterval ++ (encNat r.alohaProb.num ++ (encNat r.alohaProb.den ++
      (encNat r.backoffMin ++ (encNat r.backoffMax ++ (encBytes r.preamble ++ (encBytes r.syncWord ++
      ([r.resyncMode] ++ (encNat r.txqCap ++ ([boolByte r.profileBEnable] ++ encNat r.chunkBits)))))))))))))) := by
    simp only [encCfgRequest, List.append_assoc, List.cons_append, List.nil_append]
  rw [e]
  unfold getCfgRequest
  refine (getByte_reads _).bind ((getByte_reads _).bind ?_)
  refine (getNat_reads _).bind ((getNat_reads _).bind ?_)
  refine (getNat_reads _).bind ((getNat_reads _).bind ?_)
  refine (getNat_reads _).bind ((getNat_reads _).bind ?_)
  refine (getNat_reads _).bind ((getNat_reads _).bind ?_)
  refine (getBytes_reads _).bind ((getBytes_reads _).bind ?_)
  exact (getByte_reads _).bind ((getNat_reads _).bind ((getBool_reads _).bind (getNat_reads _).map))

/-- An operation whose operands are read decodes, with any zero padding after it. -/
theorem decode_op_of_reads {code : Byte} {bs : Bytes} {i : Instr} (h : Reads (getOperands code) bs i) (pad : Nat) :
    decode .op ((code :: bs) ++ List.replicate pad 0) = .ok i := by
  show dropPadding ((getOperands code) (bs ++ List.replicate pad 0)) = _
  rw [h]
  simp [dropPadding]

end Sys2Proof
end

