-- ==== Sys2Proof/Laws/Engine.lean ====
section
/-!
SUPPORT. One lemma for each operation of the sequencing, ARQ and receive engines that says what it can do, as plain
record updates, for the statements' proofs to cite instead of unfolding the operation.
-/

namespace Sys2Proof.Machine

/-! ### Frames and sequencing -/

theorem encodeFrame_fits {s : State} {src dst seq ty : Byte} {p : Bytes} (h : p.length ≤ 255) :
    encodeFrame s src dst seq ty p = some (frameBytes s.cfg s.crc16Table src dst seq ty p) := by
  simp [encodeFrame, Nat.not_lt.mpr h]

theorem encodeFrame_long {s : State} {src dst seq ty : Byte} {p : Bytes} (h : 255 < p.length) :
    encodeFrame s src dst seq ty p = none := by
  simp [encodeFrame, h]

theorem seqAlloc_eq (d : Addr) (s : State) :
    seqAlloc d s = (peerGet s.nextTxSeq d, { s with nextTxSeq := peerSet s.nextTxSeq d (peerGet s.nextTxSeq d + 1) }) :=
  rfl

/-- The sign test of R184 on the distance of R183. -/
theorem seqNewer_eq (a b : Seq) : seqNewer a b = decide (1 ≤ (a - b).toNat ∧ (a - b).toNat ≤ 127) := by
  have h : seqNewer a b = true ↔ 1 ≤ (a - b).toNat ∧ (a - b).toNat ≤ 127 := by
    simp only [seqNewer, Bool.and_eq_true, decide_eq_true_eq]
    rfl
  rw [Bool.eq_iff_iff, h, decide_eq_true_eq]

theorem seqAccept_inOrder {d : Addr} {n : Seq} {s : State} (h : n = peerGet s.expectedRxSeq d) :
    seqAccept d n s = (.inOrder, n, { s with expectedRxSeq := peerSet s.expectedRxSeq d (n + 1) }) := by
  simp [seqAccept, h, State.setExpectedRxSeq]

theorem seqAccept_notInOrder {d : Addr} {n : Seq} {s : State} (h : n ≠ peerGet s.expectedRxSeq d) :
    seqAccept d n s = (.notInOrder, peerGet s.expectedRxSeq d - 1, s) := by
  simp [seqAccept, h]

@[simp] theorem coverOf_nil (n : Seq) : coverOf [] n = none := rfl

/-- The count of R190 from the base. -/
theorem coverOf_cons (base : WinEntry) (w : List WinEntry) (n : Seq) :
    coverOf (base :: w) n =
      if (n - base.seq).toNat < (base :: w).length then some ((n - base.seq).toNat + 1) else none := rfl

/-- A cover count names entries that are there (R190). -/
theorem coverOf_some {w : List WinEntry} {n : Seq} {k : Nat} (h : coverOf w n = some k) : 1 ≤ k ∧ k ≤ w.length := by
  unfold coverOf at h
  cases w with
  | nil => simp at h
  | cons b r =>
    simp only at h
    split at h
    · simp only [Option.some.injEq] at h; omega
    · simp at h

/-! ### Feedback -/

/-- SUCCESS feedback for exactly the entries that owe one, oldest first (R224). -/
theorem reportDelivered_eq (d : Addr) (es : List WinEntry) (s : State) :
    reportDelivered d es s =
      { s with feedbackOut :=
          s.feedbackOut ++ (es.filter WinEntry.owesFeedback).map (fun e => ⟨d, e.seq, .success⟩) } := by
  induction es generalizing s with
  | nil => simp [reportDelivered]
  | cons e es ih =>
    unfold reportDelivered
    rw [ih]
    cases h : e.owesFeedback <;> simp [h, State.emitFeedback, WinEntry.markSent]

/-- FAILURE feedback and its cause for exactly the entries that owe one, oldest first (R226, R293). -/
theorem reportFailed_eq (d : Addr) (es : List WinEntry) (s : State) :
    reportFailed d es s =
      { s with
        feedbackOut := s.feedbackOut ++ (es.filter WinEntry.owesFeedback).map (fun e => ⟨d, e.seq, .failure⟩)
        trace := s.trace ++ (es.filter WinEntry.owesFeedback).map (fun e => .retryExhausted d e.seq) } := by
  induction es generalizing s with
  | nil => simp [reportFailed]
  | cons e es ih =>
    unfold reportFailed
    rw [ih]
    cases h : e.owesFeedback <;> simp [h, raise_retryExhausted, WinEntry.markSent]

/-! ### Retransmission -/

/-- The counters after n frames were sent again (R226). -/
def Counters.resent (c : Counters) (n : Nat) : Counters := { c with txData := c.txData + n, retx := c.retx + n }

theorem Counters.resent_succ (c : Counters) (n : Nat) :
    ((c.inc .txData).inc .retx).resent n = c.resent (n + 1) := by
  simp only [Counters.inc, Counters.resent, Counters.mk.injEq, true_and, and_true]
  omega

/-- Everything re-sending a window can do (R226): one event per entry in window order, each released in its turn, one
count each, and `tx_free_at` at the last. -/
theorem resendAll_spec (es : List WinEntry) (e0 : Nat) (s : State) :
    ∃ evs ds n, evs.map TxEvent.frame = es.map WinEntry.frame ∧
      (evs.map TxEvent.emitTime).Pairwise (· ≤ ·) ∧
      (∀ ev ∈ evs, s.clock ≤ ev.emitTime ∧ s.txFreeAt ≤ ev.emitTime ∧
        ev.emitTime ≤ (evs.map TxEvent.emitTime).getLast?.getD s.txFreeAt) ∧
      (s.cfg.backoffMin ≤ s.cfg.backoffMax →
        EmittedInTurn s.cfg s.clock s.txFreeAt (evs.map TxEvent.emitTime)) ∧
      ds <:+ s.draws ∧ s.drawCount ≤ n ∧
      resendAll es e0 s =
        ((evs.map TxEvent.emitTime).getLast?.getD e0,
          { s with
            txFreeAt := (evs.map TxEvent.emitTime).getLast?.getD s.txFreeAt
            txOut := s.txOut ++ evs
            cnt := s.cnt.resent es.length
            draws := ds
            drawCount := n }) := by
  induction es generalizing e0 s with
  | nil =>
    exact ⟨[], s.draws, s.drawCount, rfl, by simp, by simp, fun _ => trivial, List.suffix_rfl, le_refl _,
      by simp [resendAll, Counters.resent]⟩
  | cons w es ih =>
    obtain ⟨e, ds, n, hm, h1⟩ := macSend_spec w.frame s.clock s
    unfold resendAll
    simp only [hm]
    obtain ⟨evs, ds', n', hf, hp, hb, ht, hd, hn, hr⟩ := ih e
      ((({ s with txFreeAt := e, txOut := s.txOut ++ [⟨w.frame, e⟩], draws := ds, drawCount := n } : State).count
        .txData).count .retx)
    have hlast : ∀ d, ((⟨w.frame, e⟩ :: evs).map TxEvent.emitTime).getLast?.getD d =
        (evs.map TxEvent.emitTime).getLast?.getD e := by
      intro d; cases evs <;> simp [List.getLast?_cons]
    refine ⟨⟨w.frame, e⟩ :: evs, ds', n', by simp [hf], ?_, ?_, fun hle => ⟨h1.emitted hle, ht hle⟩,
      hd.trans h1.consumed, le_trans h1.counted hn, ?_⟩
    · simp only [List.map_cons, List.pairwise_cons]
      exact ⟨fun t ht => by
        obtain ⟨ev, hev, rfl⟩ := List.mem_map.mp ht
        exact (hb ev hev).2.1, hp⟩
    · intro ev hev
      rw [hlast]
      rcases List.mem_cons.mp hev with rfl | hev
      · refine ⟨h1.notEarly, h1.inTurn, ?_⟩
        cases evs with
        | nil => simp
        | cons a r =>
          have := hb a (by simp)
          simp only [State.count_txFreeAt] at this
          exact le_trans this.2.1 this.2.2
      · have := hb ev hev
        simp only [State.count_txFreeAt, State.count_clock] at this
        exact ⟨this.1, le_trans h1.inTurn this.2.1, this.2.2⟩
    · rw [hr, hlast, hlast]
      simp [State.count, Counters.resent_succ]

/-! ### Stop-and-Wait -/

/-- `SW.START` with a payload that fits (R201). -/
theorem swStart_spec (d : Addr) (p : Bytes) (s : State) (hp : p.length ≤ 255) :
    ∃ e ds n, Sent s.cfg s.txFreeAt s.draws s.drawCount s.clock e ds n ∧
      swStart d p s =
        { s with
          nextTxSeq := peerSet s.nextTxSeq d (peerGet s.nextTxSeq d + 1)
          txFreeAt := e
          txOut := s.txOut ++ [⟨frameBytes s.cfg s.crc16Table s.cfg.nodeAddr d (peerGet s.nextTxSeq d) typeData p, e⟩]
          cnt := s.cnt.inc .txData
          sw := peerSet s.sw d ⟨.awaitAck,
            frameBytes s.cfg s.crc16Table s.cfg.nodeAddr d (peerGet s.nextTxSeq d) typeData p,
            peerGet s.nextTxSeq d, 0, e + s.cfg.arqTimeout⟩
          draws := ds
          drawCount := n } := by
  unfold swStart
  simp only [seqAlloc_eq, encodeFrame_fits hp]
  obtain ⟨e, ds, n, hm, h1⟩ := macSend_spec
    (frameBytes s.cfg s.crc16Table s.cfg.nodeAddr d (peerGet s.nextTxSeq d) typeData p) s.clock
    { s with nextTxSeq := peerSet s.nextTxSeq d (peerGet s.nextTxSeq d + 1) }
  rw [hm]
  exact ⟨e, ds, n, h1, rfl⟩

/-- `SW.START` with a payload that does not fit has the entry actions of its error and no other effect (R294). -/
theorem swStart_long (d : Addr) (p : Bytes) (s : State) (hp : 255 < p.length) :
    swStart d p s = raise .payloadTooLong s := by
  unfold swStart
  simp only [encodeFrame_long hp]

/-- `SW.ACK` (R203): the matching ACK, or nothing. -/
theorem swAck_spec (d : Addr) (n : Seq) (s : State) :
    ((peerGet s.sw d).state = .awaitAck ∧ (peerGet s.sw d).seq = n ∧
      swAck d n s =
        { s with
          feedbackOut := s.feedbackOut ++ [⟨d, n, .success⟩]
          sw := peerSet s.sw d { peerGet s.sw d with state := .idle } }) ∨
    (¬ ((peerGet s.sw d).state = .awaitAck ∧ (peerGet s.sw d).seq = n) ∧ swAck d n s = s) := by
  unfold swAck
  simp only
  split
  · next h => exact .inl ⟨h.1, h.2, rfl⟩
  · next h => exact .inr ⟨h, rfl⟩

/-- `SW.TIMEOUT` (R205): no expiry, a retransmission, or the failure. -/
theorem swTimeout_spec (d : Addr) (s : State) :
    (((peerGet s.sw d).state ≠ .awaitAck ∨ s.clock < (peerGet s.sw d).deadline) ∧ swTimeout d s = s) ∨
    ((peerGet s.sw d).state = .awaitAck ∧ (peerGet s.sw d).deadline ≤ s.clock ∧
      (peerGet s.sw d).retry < s.cfg.maxRetries ∧
      ∃ e ds n, Sent s.cfg s.txFreeAt s.draws s.drawCount s.clock e ds n ∧
        swTimeout d s =
          { s with
            txFreeAt := e
            txOut := s.txOut ++ [⟨(peerGet s.sw d).frame, e⟩]
            cnt := ((s.cnt.inc .winTimeout).inc .txData).inc .retx
            sw := peerSet s.sw d
              { peerGet s.sw d with retry := (peerGet s.sw d).retry + 1, deadline := e + s.cfg.arqTimeout }
            draws := ds
            drawCount := n }) ∨
    ((peerGet s.sw d).state = .awaitAck ∧ (peerGet s.sw d).deadline ≤ s.clock ∧
      s.cfg.maxRetries ≤ (peerGet s.sw d).retry ∧
      swTimeout d s =
        { s with
          cnt := s.cnt.inc .winTimeout
          feedbackOut := s.feedbackOut ++ [⟨d, (peerGet s.sw d).seq, .failure⟩]
          trace := s.trace ++ [.retryExhausted d (peerGet s.sw d).seq]
          sw := peerSet s.sw d { peerGet s.sw d with state := .idle } }) := by
  unfold swTimeout
  simp only
  split
  · next h => exact .inl ⟨h, rfl⟩
  · next h =>
    rw [not_or, not_not, Nat.not_lt] at h
    split
    · next hr =>
      obtain ⟨e, ds, n, hm, h1⟩ := macSend_spec (peerGet s.sw d).frame s.clock (s.count .winTimeout)
      refine .inr (.inl ⟨h.1, h.2, hr, e, ds, n, h1, ?_⟩)
      rw [hm]
      rfl
    · next hr => exact .inr (.inr ⟨h.1, h.2, by omega, rfl⟩)

/-! ### Go-Back-N -/

/-- `GBN.ADMIT` with a payload that fits (R221). -/
theorem gbnAdmit_spec (d : Addr) (p : Bytes) (s : State) (hp : p.length ≤ 255) :
    ∃ e ds n, Sent s.cfg s.txFreeAt s.draws s.drawCount s.clock e ds n ∧
      gbnAdmit d p s =
        { s with
          nextTxSeq := peerSet s.nextTxSeq d (peerGet s.nextTxSeq d + 1)
          txFreeAt := e
          txOut := s.txOut ++ [⟨frameBytes s.cfg s.crc16Table s.cfg.nodeAddr d (peerGet s.nextTxSeq d) typeData p, e⟩]
          cnt := s.cnt.inc .txData
          gbn := peerSet s.gbn d
            { window := (peerGet s.gbn d).window ++ [⟨peerGet s.nextTxSeq d,
                frameBytes s.cfg s.crc16Table s.cfg.nodeAddr d (peerGet s.nextTxSeq d) typeData p, false, true⟩]
              retry := if (peerGet s.gbn d).window = [] then 0 else (peerGet s.gbn d).retry
              deadline := if (peerGet s.gbn d).window = [] then e + s.cfg.arqTimeout else (peerGet s.gbn d).deadline }
          draws := ds
          drawCount := n } := by
  unfold gbnAdmit
  simp only [seqAlloc_eq, encodeFrame_fits hp]
  obtain ⟨e, ds, n, hm, h1⟩ := macSend_spec
    (frameBytes s.cfg s.crc16Table s.cfg.nodeAddr d (peerGet s.nextTxSeq d) typeData p) s.clock
    { s with nextTxSeq := peerSet s.nextTxSeq d (peerGet s.nextTxSeq d + 1) }
  rw [hm]
  refine ⟨e, ds, n, h1, ?_⟩
  by_cases hw : (peerGet s.gbn d).window = []
  · simp [hw, setGbnTimer, winPush, newWinEntry, State.setGbn, State.count]
  · simp [hw, winPush, newWinEntry, State.setGbn, State.count]

/-- `GBN.ADMIT` with a payload that does not fit has the entry actions of its error and no other effect (R294). -/
theorem gbnAdmit_long (d : Addr) (p : Bytes) (s : State) (hp : 255 < p.length) :
    gbnAdmit d p s = raise .payloadTooLong s := by
  unfold gbnAdmit
  simp only [encodeFrame_long hp]

/-- `GBN.ACK` (R224, R225): the window slides, or nothing changes. -/
theorem gbnAck_spec (d : Addr) (n : Seq) (s : State) :
    (coverOf (peerGet s.gbn d).window n = none ∧ gbnAck d n s = s) ∨
    ∃ k, coverOf (peerGet s.gbn d).window n = some k ∧ 1 ≤ k ∧ k ≤ (peerGet s.gbn d).window.length ∧
      gbnAck d n s =
        { s with
          feedbackOut := s.feedbackOut ++
            (((peerGet s.gbn d).window.take k).filter WinEntry.owesFeedback).map (fun e => ⟨d, e.seq, .success⟩)
          gbn := peerSet s.gbn d
            { window := (peerGet s.gbn d).window.drop k
              retry := if (peerGet s.gbn d).window.drop k = [] then (peerGet s.gbn d).retry else 0
              deadline := if (peerGet s.gbn d).window.drop k = [] then (peerGet s.gbn d).deadline
                else s.clock + s.cfg.arqTimeout } } := by
  unfold gbnAck winCover
  cases h : coverOf (peerGet s.gbn d).window n with
  | none => exact .inl ⟨rfl, rfl⟩
  | some k =>
    refine .inr ⟨k, rfl, (coverOf_some h).1, (coverOf_some h).2, ?_⟩
    simp only [winSlide, reportDelivered_eq, State.setGbn_gbn, State.setGbn_feedbackOut]
    by_cases hw : (peerGet s.gbn d).window.drop k = []
    · simp [hw, State.setGbn]
    · simp [hw, State.setGbn, setGbnTimer]

/-- `GBN.TIMEOUT` (R226): no expiry, the whole window again, or the failure of the whole window. -/
theorem gbnTimeout_spec (d : Addr) (s : State) :
    (((peerGet s.gbn d).window = [] ∨ s.clock < (peerGet s.gbn d).deadline) ∧ gbnTimeout d s = s) ∨
    ((peerGet s.gbn d).window ≠ [] ∧ (peerGet s.gbn d).deadline ≤ s.clock ∧
      (peerGet s.gbn d).retry + 1 ≤ s.cfg.maxRetries ∧
      ∃ evs e ds n, evs.map TxEvent.frame = (peerGet s.gbn d).window.map WinEntry.frame ∧
        (evs.map TxEvent.emitTime).Pairwise (· ≤ ·) ∧ (evs.map TxEvent.emitTime).getLast? = some e ∧
        (∀ ev ∈ evs, s.clock ≤ ev.emitTime ∧ s.txFreeAt ≤ ev.emitTime ∧ ev.emitTime ≤ e) ∧
        (s.cfg.backoffMin ≤ s.cfg.backoffMax →
          EmittedInTurn s.cfg s.clock s.txFreeAt (evs.map TxEvent.emitTime)) ∧
        ds <:+ s.draws ∧ s.drawCount ≤ n ∧
        gbnTimeout d s =
          { s with
            txFreeAt := e
            txOut := s.txOut ++ evs
            cnt := (s.cnt.inc .winTimeout).resent (peerGet s.gbn d).window.length
            gbn := peerSet s.gbn d
              { peerGet s.gbn d with retry := (peerGet s.gbn d).retry + 1, deadline := e + s.cfg.arqTimeout }
            draws := ds
            drawCount := n }) ∨
    ((peerGet s.gbn d).window ≠ [] ∧ (peerGet s.gbn d).deadline ≤ s.clock ∧
      s.cfg.maxRetries < (peerGet s.gbn d).retry + 1 ∧
      gbnTimeout d s =
        { s with
          cnt := s.cnt.inc .winTimeout
          feedbackOut := s.feedbackOut ++
            ((peerGet s.gbn d).window.filter WinEntry.owesFeedback).map (fun e => ⟨d, e.seq, .failure⟩)
          trace := s.trace ++
            ((peerGet s.gbn d).window.filter WinEntry.owesFeedback).map (fun e => .retryExhausted d e.seq)
          gbn := peerSet s.gbn d { peerGet s.gbn d with window := [], retry := 0 } }) := by
  unfold gbnTimeout
  simp only
  split
  · next h => exact .inl ⟨h, rfl⟩
  · next h =>
    rw [not_or, Nat.not_lt] at h
    split
    · next hr =>
      obtain ⟨evs, ds, n, hf, hp, hb, ht, hd, hn, he⟩ :=
        resendAll_spec (peerGet s.gbn d).window s.clock (s.count .winTimeout)
      have hne : evs ≠ [] := by
        rintro rfl
        exact h.1 (by simpa using hf.symm)
      obtain ⟨e, hlast⟩ : ∃ e, (evs.map TxEvent.emitTime).getLast? = some e := by
        cases hl : (evs.map TxEvent.emitTime).getLast? with
        | none => simp [hne] at hl
        | some e => exact ⟨e, rfl⟩
      refine .inr (.inl ⟨h.1, h.2, hr, evs, e, ds, n, hf, hp, hlast, ?_, ht, hd, hn, ?_⟩)
      · intro ev hev
        simpa [hlast] using hb ev hev
      · rw [he]
        simp [hlast, setGbnTimer, State.setGbn, State.count]
    · next hr =>
      refine .inr (.inr ⟨h.1, h.2, by omega, ?_⟩)
      simp [winClear, reportFailed_eq, State.setGbn, State.count]

/-! ### Receiving -/

/-- The state after a DATA frame's verdict, before its ACK goes out (R264). -/
def afterVerdict (f : Frame) (s : State) : State :=
  if f.seq = peerGet s.expectedRxSeq f.src then
    { s with
      cnt := s.cnt.inc .rxData
      expectedRxSeq := peerSet s.expectedRxSeq f.src (f.seq + 1)
      deliverOut := s.deliverOut ++ [⟨f.src, f.payload⟩] }
  else { s with cnt := s.cnt.inc .rxData }

/-- The number a DATA frame's ACK carries (R186). -/
def ackNumber (f : Frame) (s : State) : Seq :=
  if f.seq = peerGet s.expectedRxSeq f.src then f.seq else peerGet s.expectedRxSeq f.src - 1

/-- `NODE.RX_DATA` (R264): one count, at most one delivery, exactly one ACK. -/
theorem nodeRxData_spec (f : Frame) (s : State) :
    ∃ e ds n, Sent s.cfg s.txFreeAt s.draws s.drawCount s.clock e ds n ∧
      nodeRxData f s =
        { afterVerdict f s with
          txFreeAt := e
          txOut := s.txOut ++
            [⟨frameBytes s.cfg s.crc16Table s.cfg.nodeAddr f.src (ackNumber f s) typeAck [], e⟩]
          cnt := (s.cnt.inc .rxData).inc .txAck
          draws := ds
          drawCount := n } := by
  have key : ∀ (n : Seq) (t : State), t.cfg = s.cfg → t.crc16Table = s.crc16Table → t.clock = s.clock →
      t.txFreeAt = s.txFreeAt → t.draws = s.draws → t.drawCount = s.drawCount → t.txOut = s.txOut → t.cnt = s.cnt.inc .rxData → ∃ e ds k, Sent s.cfg s.txFreeAt s.draws s.drawCount s.clock e ds k ∧
        (macSend (frameBytes t.cfg t.crc16Table t.cfg.nodeAddr f.src n typeAck []) t.clock t).2.count .txAck =
          { t with
            txFreeAt := e
            txOut := s.txOut ++ [⟨frameBytes s.cfg s.crc16Table s.cfg.nodeAddr f.src n typeAck [], e⟩]
            cnt := (s.cnt.inc .rxData).inc .txAck
            draws := ds
            drawCount := k } := by
    intro n t h1 h2 h3 h4 h7 h8 h5 h6
    obtain ⟨e, ds, k, hm, ha⟩ :=
      macSend_spec (frameBytes t.cfg t.crc16Table t.cfg.nodeAddr f.src n typeAck []) t.clock t
    rw [h1, h3, h4, h7, h8] at ha
    refine ⟨e, ds, k, ha, ?_⟩
    rw [hm]
    simp only [State.count, h1, h2, h5, h6]
  unfold nodeRxData afterVerdict ackNumber
  by_cases h : f.seq = peerGet s.expectedRxSeq f.src
  · simp only [seqAccept_inOrder (s := s.count .rxData) h, if_pos h]
    exact key _ _ rfl rfl rfl rfl rfl rfl rfl rfl
  · simp only [seqAccept_notInOrder (s := s.count .rxData) h, if_neg h]
    exact key _ _ rfl rfl rfl rfl rfl rfl rfl rfl

/-- `NODE.RX_FRAME` (R263): dropped, received as DATA, a violation, or a queued ACK. -/
theorem nodeRxFrame_cases (f : Frame) (s : State) :
    ((f.dst ≠ s.cfg.nodeAddr ∧ f.dst ≠ broadcast) ∧ nodeRxFrame f s = s) ∨
    ((f.dst = s.cfg.nodeAddr ∨ f.dst = broadcast) ∧
      ((f.ty = typeData ∧ nodeRxFrame f s = nodeRxData f s) ∨
        (f.ty = typeAck ∧ f.payload ≠ [] ∧ nodeRxFrame f s = raise .ackWithPayload s) ∨
        (f.ty = typeAck ∧ f.payload = [] ∧
          nodeRxFrame f s = { s with cnt := s.cnt.inc .rxAck, ackq := s.ackq ++ [⟨f.src, f.seq⟩] }) ∨
        (f.ty ≠ typeData ∧ f.ty ≠ typeAck ∧ nodeRxFrame f s = raise .unknownType s))) := by
  unfold nodeRxFrame
  split
  · next h => exact .inl ⟨h, rfl⟩
  · next h =>
    refine .inr ⟨by tauto, ?_⟩
    split
    · next h1 => exact .inl ⟨h1, rfl⟩
    · next h1 =>
      split
      · next h2 =>
        split
        · next h3 => exact .inr (.inl ⟨h2, h3, rfl⟩)
        · next h3 => exact .inr (.inr (.inl ⟨h2, by simpa using h3, rfl⟩))
      · next h2 => exact .inr (.inr (.inr ⟨h1, h2, rfl⟩))

/-- The receive path touches none of the node's transmit state (R268, R269). -/
theorem nodeRxFrame_frame (f : Frame) (s : State) :
    (nodeRxFrame f s).mode = s.mode ∧ (nodeRxFrame f s).cfg = s.cfg ∧ (nodeRxFrame f s).crc16Table = s.crc16Table ∧
      (nodeRxFrame f s).rxBuf = s.rxBuf ∧ (nodeRxFrame f s).rxIn = s.rxIn ∧
      (nodeRxFrame f s).nextTxSeq = s.nextTxSeq ∧ (nodeRxFrame f s).sw = s.sw ∧ (nodeRxFrame f s).gbn = s.gbn ∧
      (nodeRxFrame f s).txq = s.txq ∧ (nodeRxFrame f s).clock = s.clock ∧
      (nodeRxFrame f s).feedbackOut = s.feedbackOut ∧ (nodeRxFrame f s).result = s.result ∧
      (nodeRxFrame f s).port = s.port := by
  rcases nodeRxFrame_cases f s with ⟨-, h⟩ | ⟨-, ⟨-, h⟩ | ⟨-, -, h⟩ | ⟨-, -, h⟩ | ⟨-, -, h⟩⟩
  · simp [h]
  · obtain ⟨e, ds, n, -, h'⟩ := nodeRxData_spec f s
    rw [h, h']
    unfold afterVerdict
    split <;> simp
  · simp [h, raise_ackWithPayload]
  · simp [h]
  · simp [h, raise_unknownType]

end Sys2Proof.Machine
end

