-- ==== Sys2Proof/Laws/Node.lean ====
section
/-!
SUPPORT. What the engines and the phases of a tick can do, said once for all of them: `Grows`, the effects every one of
them keeps to, and for each phase the fields it leaves alone; and that the response register takes no part in any.
-/

namespace Sys2Proof.Machine

/-! ### Growth -/

/-- No counter of c is above its value in c'. -/
structure Counters.Le (c c' : Counters) : Prop where
  txData : c.txData ≤ c'.txData
  rxData : c.rxData ≤ c'.rxData
  txAck : c.txAck ≤ c'.txAck
  rxAck : c.rxAck ≤ c'.rxAck
  retx : c.retx ≤ c'.retx
  crcFail : c.crcFail ≤ c'.crcFail
  winTimeout : c.winTimeout ≤ c'.winTimeout
  protoViolation : c.protoViolation ≤ c'.protoViolation

theorem Counters.Le.refl (c : Counters) : c.Le c := by constructor <;> exact le_refl _

theorem Counters.Le.trans {a b c : Counters} (h : a.Le b) (h' : b.Le c) : a.Le c :=
  ⟨h.1.trans h'.1, h.2.trans h'.2, h.3.trans h'.3, h.4.trans h'.4, h.5.trans h'.5, h.6.trans h'.6, h.7.trans h'.7,
    h.8.trans h'.8⟩

theorem Counters.le_inc (c : Counters) (n : CounterName) : c.Le (c.inc n) := by
  cases n <;> constructor <;> simp [Counters.inc]

theorem Counters.le_resent (c : Counters) (n : Nat) : c.Le (c.resent n) := by
  constructor <;> simp [Counters.resent]

/-- What every engine operation and every phase of a tick keeps to: the mode, the configuration, the table, the clock
and the port stay; events are appended, counters and the transmitter's time do not go down, draws are consumed from the
front, and emission times stay in order (R242). -/
structure Grows (s t : State) : Prop where
  mode : t.mode = s.mode
  cfg : t.cfg = s.cfg
  table : t.crc16Table = s.crc16Table
  clock : t.clock = s.clock
  port : t.port = s.port
  txOut : s.txOut <+: t.txOut
  deliverOut : s.deliverOut <+: t.deliverOut
  feedbackOut : s.feedbackOut <+: t.feedbackOut
  txFreeAt : s.txFreeAt ≤ t.txFreeAt
  cnt : s.cnt.Le t.cnt
  draws : t.draws <:+ s.draws
  drawCount : s.drawCount ≤ t.drawCount
  emissions : EmissionsInOrder s → EmissionsInOrder t

theorem Grows.refl (s : State) : Grows s s :=
  ⟨rfl, rfl, rfl, rfl, rfl, List.prefix_rfl, List.prefix_rfl, List.prefix_rfl, le_refl _, .refl _, List.suffix_rfl,
    le_refl _, id⟩

theorem Grows.trans {a b c : State} (h : Grows a b) (h' : Grows b c) : Grows a c where
  mode := h'.mode.trans h.mode
  cfg := h'.cfg.trans h.cfg
  table := h'.table.trans h.table
  clock := h'.clock.trans h.clock
  port := h'.port.trans h.port
  txOut := h.txOut.trans h'.txOut
  deliverOut := h.deliverOut.trans h'.deliverOut
  feedbackOut := h.feedbackOut.trans h'.feedbackOut
  txFreeAt := h.txFreeAt.trans h'.txFreeAt
  cnt := h.cnt.trans h'.cnt
  draws := h'.draws.trans h.draws
  drawCount := h.drawCount.trans h'.drawCount
  emissions := fun e => h'.emissions (h.emissions e)

/-- Events at times in order, none before the transmitter is free, keep all emission times in order. -/
theorem emissions_append {s t : State} {evs : List TxEvent} (ho : t.txOut = s.txOut ++ evs)
    (hp : (evs.map TxEvent.emitTime).Pairwise (· ≤ ·)) (hle : s.txFreeAt ≤ t.txFreeAt)
    (hb : ∀ ev ∈ evs, s.txFreeAt ≤ ev.emitTime ∧ ev.emitTime ≤ t.txFreeAt) (h : EmissionsInOrder s) :
    EmissionsInOrder t := by
  constructor
  · rw [ho, List.map_append, List.pairwise_append]
    refine ⟨h.sorted, hp, ?_⟩
    intro a ha b hb'
    obtain ⟨x, hx, rfl⟩ := List.mem_map.mp ha
    obtain ⟨y, hy, rfl⟩ := List.mem_map.mp hb'
    exact (h.bound x hx).trans (hb y hy).1
  · intro ev hev
    rw [ho] at hev
    rcases List.mem_append.mp hev with hev | hev
    · exact (h.bound ev hev).trans hle
    · exact (hb ev hev).2

/-- One event at the time the transmitter is free from then on. -/
theorem emissions_one {s t : State} {ev : TxEvent} (ho : t.txOut = s.txOut ++ [ev]) (hf : t.txFreeAt = ev.emitTime)
    (hle : s.txFreeAt ≤ ev.emitTime) (h : EmissionsInOrder s) : EmissionsInOrder t :=
  emissions_append (evs := [ev]) ho (by simp) (hf ▸ hle) (by simp [hf, hle]) h

/-- Nothing transmitted: the emission times are as they were. -/
theorem emissions_same {s t : State} (ho : t.txOut = s.txOut) (hf : t.txFreeAt = s.txFreeAt)
    (h : EmissionsInOrder s) : EmissionsInOrder t :=
  ⟨ho ▸ h.sorted, by rw [ho, hf]; exact h.bound⟩

theorem swAck_grows (d : Addr) (n : Seq) (s : State) : Grows s (swAck d n s) := by
  rcases swAck_spec d n s with ⟨-, -, h⟩ | ⟨-, h⟩ <;> rw [h]
  · exact ⟨rfl, rfl, rfl, rfl, rfl, List.prefix_rfl, List.prefix_rfl, List.prefix_append _ _, le_refl _, .refl _,
      List.suffix_rfl, le_refl _, emissions_same rfl rfl⟩
  · exact .refl s

theorem gbnAck_grows (d : Addr) (n : Seq) (s : State) : Grows s (gbnAck d n s) := by
  rcases gbnAck_spec d n s with ⟨-, h⟩ | ⟨k, -, -, -, h⟩ <;> rw [h]
  · exact .refl s
  · exact ⟨rfl, rfl, rfl, rfl, rfl, List.prefix_rfl, List.prefix_rfl, List.prefix_append _ _, le_refl _, .refl _,
      List.suffix_rfl, le_refl _, emissions_same rfl rfl⟩

theorem raise_payloadTooLong_grows (s : State) : Grows s (raise .payloadTooLong s) := by
  rw [raise_payloadTooLong]
  exact ⟨rfl, rfl, rfl, rfl, rfl, List.prefix_rfl, List.prefix_rfl, List.prefix_rfl, le_refl _, .refl _,
    List.suffix_rfl, le_refl _, emissions_same rfl rfl⟩

theorem swStart_grows (d : Addr) (p : Bytes) (s : State) : Grows s (swStart d p s) := by
  by_cases hp : p.length ≤ 255
  · obtain ⟨e, ds, n, h1, h⟩ := swStart_spec d p s hp
    rw [h]
    exact ⟨rfl, rfl, rfl, rfl, rfl, List.prefix_append _ _, List.prefix_rfl, List.prefix_rfl, h1.inTurn,
      Counters.le_inc s.cnt .txData, h1.consumed, h1.counted, emissions_one rfl rfl h1.inTurn⟩
  · rw [swStart_long d p s (by omega)]
    exact raise_payloadTooLong_grows s

theorem gbnAdmit_grows (d : Addr) (p : Bytes) (s : State) : Grows s (gbnAdmit d p s) := by
  by_cases hp : p.length ≤ 255
  · obtain ⟨e, ds, n, h1, h⟩ := gbnAdmit_spec d p s hp
    rw [h]
    exact ⟨rfl, rfl, rfl, rfl, rfl, List.prefix_append _ _, List.prefix_rfl, List.prefix_rfl, h1.inTurn,
      Counters.le_inc s.cnt .txData, h1.consumed, h1.counted, emissions_one rfl rfl h1.inTurn⟩
  · rw [gbnAdmit_long d p s (by omega)]
    exact raise_payloadTooLong_grows s

theorem swTimeout_grows (d : Addr) (s : State) : Grows s (swTimeout d s) := by
  rcases swTimeout_spec d s with ⟨-, h⟩ | ⟨-, -, -, e, ds, n, h1, h⟩ | ⟨-, -, -, h⟩ <;> rw [h]
  · exact .refl s
  · exact ⟨rfl, rfl, rfl, rfl, rfl, List.prefix_append _ _, List.prefix_rfl, List.prefix_rfl, h1.inTurn,
      ((Counters.le_inc s.cnt .winTimeout).trans (Counters.le_inc _ .txData)).trans (Counters.le_inc _ .retx), h1.consumed, h1.counted,
      emissions_one rfl rfl h1.inTurn⟩
  · exact ⟨rfl, rfl, rfl, rfl, rfl, List.prefix_rfl, List.prefix_rfl, List.prefix_append _ _, le_refl _,
      Counters.le_inc s.cnt .winTimeout, List.suffix_rfl, le_refl _, emissions_same rfl rfl⟩

theorem gbnTimeout_grows (d : Addr) (s : State) : Grows s (gbnTimeout d s) := by
  rcases gbnTimeout_spec d s with ⟨-, h⟩ | ⟨-, -, -, evs, e, ds, n, -, hp, hl, hb, -, hd, hn, h⟩ | ⟨-, -, -, h⟩ <;> rw [h]
  · exact .refl s
  · have hle : s.txFreeAt ≤ e := by
      obtain ⟨ev, hev, rfl⟩ := List.mem_map.mp (List.mem_of_getLast? hl)
      exact (hb ev hev).2.1
    exact ⟨rfl, rfl, rfl, rfl, rfl, List.prefix_append _ _, List.prefix_rfl, List.prefix_rfl, hle,
      (Counters.le_inc s.cnt .winTimeout).trans (Counters.le_resent _ (peerGet s.gbn d).window.length), hd, hn,
      emissions_append rfl hp hle (fun ev hev => (hb ev hev).2)⟩
  · exact ⟨rfl, rfl, rfl, rfl, rfl, List.prefix_rfl, List.prefix_rfl, List.prefix_append _ _, le_refl _,
      Counters.le_inc s.cnt .winTimeout, List.suffix_rfl, le_refl _, emissions_same rfl rfl⟩

theorem nodeRxData_grows (f : Frame) (s : State) : Grows s (nodeRxData f s) := by
  obtain ⟨e, ds, n, h1, h⟩ := nodeRxData_spec f s
  rw [h]
  unfold afterVerdict
  split
  · exact ⟨rfl, rfl, rfl, rfl, rfl, List.prefix_append _ _, List.prefix_append _ _, List.prefix_rfl, h1.inTurn,
      (Counters.le_inc s.cnt .rxData).trans (Counters.le_inc _ .txAck), h1.consumed, h1.counted, emissions_one rfl rfl h1.inTurn⟩
  · exact ⟨rfl, rfl, rfl, rfl, rfl, List.prefix_append _ _, List.prefix_rfl, List.prefix_rfl, h1.inTurn,
      (Counters.le_inc s.cnt .rxData).trans (Counters.le_inc _ .txAck), h1.consumed, h1.counted, emissions_one rfl rfl h1.inTurn⟩

theorem nodeRxFrame_grows (f : Frame) (s : State) : Grows s (nodeRxFrame f s) := by
  rcases nodeRxFrame_cases f s with ⟨-, h⟩ | ⟨-, ⟨-, h⟩ | ⟨-, -, h⟩ | ⟨-, -, h⟩ | ⟨-, -, h⟩⟩ <;> rw [h]
  · exact .refl s
  · exact nodeRxData_grows f s
  · exact ⟨rfl, rfl, rfl, rfl, rfl, List.prefix_rfl, List.prefix_rfl, List.prefix_rfl, le_refl _,
      Counters.le_inc s.cnt .protoViolation, List.suffix_rfl, le_refl _, emissions_same rfl rfl⟩
  · exact ⟨rfl, rfl, rfl, rfl, rfl, List.prefix_rfl, List.prefix_rfl, List.prefix_rfl, le_refl _,
      Counters.le_inc s.cnt .rxAck, List.suffix_rfl, le_refl _, emissions_same rfl rfl⟩
  · exact ⟨rfl, rfl, rfl, rfl, rfl, List.prefix_rfl, List.prefix_rfl, List.prefix_rfl, le_refl _,
      Counters.le_inc s.cnt .protoViolation, List.suffix_rfl, le_refl _, emissions_same rfl rfl⟩

/-! ### The response register takes no part -/

theorem swAck_answer (d : Addr) (n : Seq) (s : State) (r : Response) :
    swAck d n (s.answer r) = (swAck d n s).answer r := by
  by_cases h : (peerGet s.sw d).state = .awaitAck ∧ (peerGet s.sw d).seq = n
  · exact (if_pos h : swAck d n (s.answer r) = _).trans
      (congrArg (State.answer · r) (if_pos h : swAck d n s = _)).symm
  · exact (if_neg h : swAck d n (s.answer r) = _).trans
      (congrArg (State.answer · r) (if_neg h : swAck d n s = _)).symm

theorem reportDelivered_answer (d : Addr) (es : List WinEntry) (s : State) (r : Response) :
    reportDelivered d es (s.answer r) = (reportDelivered d es s).answer r := by
  simp only [reportDelivered_eq]; rfl

theorem gbnAck_answer (d : Addr) (n : Seq) (s : State) (r : Response) :
    gbnAck d n (s.answer r) = (gbnAck d n s).answer r := by
  rcases gbnAck_spec d n s with ⟨h0, h⟩ | ⟨k, hk, -, -, h⟩ <;>
    rcases gbnAck_spec d n (s.answer r) with ⟨h0', h'⟩ | ⟨k', hk', -, -, h'⟩
  · rw [h, h']
  · simp only [State.answer_gbn] at hk'; rw [h0] at hk'; cases hk'
  · simp only [State.answer_gbn] at h0'; rw [hk] at h0'; cases h0'
  · simp only [State.answer_gbn] at hk'; rw [hk] at hk'; cases hk'
    rw [h, h']; rfl

theorem macSend_answer (f : Bytes) (t : Nat) (s : State) (r : Response) :
    macSend f t (s.answer r) = ((macSend f t s).1, (macSend f t s).2.answer r) := rfl

theorem swTimeout_answer (d : Addr) (s : State) (r : Response) :
    swTimeout d (s.answer r) = (swTimeout d s).answer r := by
  by_cases h : (peerGet s.sw d).state ≠ .awaitAck ∨ s.clock < (peerGet s.sw d).deadline
  · exact (if_pos h : swTimeout d (s.answer r) = _).trans
      (congrArg (State.answer · r) (if_pos h : swTimeout d s = _)).symm
  · refine (if_neg h : swTimeout d (s.answer r) = _).trans
      (Eq.trans ?_ (congrArg (State.answer · r) (if_neg h : swTimeout d s = _)).symm)
    by_cases h' : (peerGet s.sw d).retry < s.cfg.maxRetries
    · refine (if_pos h').trans (Eq.trans ?_ (congrArg (State.answer · r) (if_pos h')).symm)
      rfl
    · refine (if_neg h').trans (Eq.trans ?_ (congrArg (State.answer · r) (if_neg h')).symm)
      rfl

theorem resendAll_answer (es : List WinEntry) (e : Nat) (s : State) (r : Response) :
    resendAll es e (s.answer r) = ((resendAll es e s).1, (resendAll es e s).2.answer r) := by
  induction es generalizing e s with
  | nil => rfl
  | cons w es ih =>
    unfold resendAll
    exact ih (macSend w.frame s.clock s).1 (((macSend w.frame s.clock s).2.count .txData).count .retx)

theorem reportFailed_answer (d : Addr) (es : List WinEntry) (s : State) (r : Response) :
    reportFailed d es (s.answer r) = (reportFailed d es s).answer r := by
  simp only [reportFailed_eq]; rfl

theorem gbnTimeout_answer (d : Addr) (s : State) (r : Response) :
    gbnTimeout d (s.answer r) = (gbnTimeout d s).answer r := by
  by_cases h : (peerGet s.gbn d).window = [] ∨ s.clock < (peerGet s.gbn d).deadline
  · exact (if_pos h : gbnTimeout d (s.answer r) = _).trans
      (congrArg (State.answer · r) (if_pos h : gbnTimeout d s = _)).symm
  · refine (if_neg h : gbnTimeout d (s.answer r) = _).trans
      (Eq.trans ?_ (congrArg (State.answer · r) (if_neg h : gbnTimeout d s = _)).symm)
    by_cases h' : (peerGet s.gbn d).retry + 1 ≤ s.cfg.maxRetries
    · refine (if_pos h').trans (Eq.trans ?_ (congrArg (State.answer · r) (if_pos h')).symm)
      have e := resendAll_answer (peerGet s.gbn d).window s.clock (s.count .winTimeout) r
      exact congrArg (fun p : Nat × State =>
        setGbnTimer d ((peerGet s.gbn d).retry + 1) (p.1 + s.cfg.arqTimeout) p.2) e
    · refine (if_neg h').trans (Eq.trans ?_ (congrArg (State.answer · r) (if_neg h')).symm)
      have e := reportFailed_answer d (peerGet s.gbn d).window (winClear d (s.count .winTimeout)).2 r
      exact congrArg (fun t : State => t.setGbn d { peerGet t.gbn d with retry := 0 }) e

theorem timerOne_answer (d : Addr) (s : State) (r : Response) : timerOne (s.answer r) d = (timerOne s d).answer r := by
  unfold timerOne
  rw [State.answer_cfg]
  cases s.cfg.arqMode
  · exact swTimeout_answer d s r
  · exact gbnTimeout_answer d s r

theorem nodeTimers_answer (s : State) (r : Response) : nodeTimers (s.answer r) = (nodeTimers s).answer r := by
  unfold nodeTimers
  induction allAddrs generalizing s with
  | nil => rfl
  | cons k ks ih => simp only [List.foldl_cons, timerOne_answer, ih]

theorem ackOne_answer (a : AckNote) (s : State) (r : Response) : ackOne a (s.answer r) = (ackOne a s).answer r := by
  unfold ackOne
  rw [State.answer_cfg]
  cases s.cfg.arqMode
  · exact swAck_answer _ _ s r
  · exact gbnAck_answer _ _ s r

theorem nodeAcks_answer (s : State) (r : Response) : nodeAcks (s.answer r) = (nodeAcks s).answer r := by
  unfold nodeAcks
  simp only [State.answer_ackq]
  induction s.ackq generalizing s with
  | nil => rfl
  | cons a as ih => exact (congrArg (drainAcks as) (ackOne_answer a { s with ackq := as } r)).trans (ih _)

/-- The response an admission starts from does not matter: its own is the last word, or none is. -/
theorem admitOne_answer (m : Message) (s : State) (r r' : Response) :
    (admitOne m (s.answer r)).answer r' = (admitOne m s).answer r' := by
  unfold admitOne
  rw [State.answer_cfg]
  cases s.cfg.arqMode
  · by_cases hp : m.payload.length ≤ 255
    · simp only [swStart, seqAlloc_eq, encodeFrame_fits hp]; rfl
    · simp only [swStart, seqAlloc_eq, encodeFrame_long (Nat.lt_of_not_le hp)]; rfl
  · by_cases hp : m.payload.length ≤ 255
    · simp only [gbnAdmit, seqAlloc_eq, encodeFrame_fits hp]
      by_cases hw : (peerGet s.gbn m.dst).window = []
      · refine (congrArg (State.answer · r') (if_pos hw)).trans
          (Eq.trans ?_ (congrArg (State.answer · r') (if_pos hw)).symm)
        rfl
      · refine (congrArg (State.answer · r') (if_neg hw)).trans
          (Eq.trans ?_ (congrArg (State.answer · r') (if_neg hw)).symm)
        rfl
    · simp only [gbnAdmit, seqAlloc_eq, encodeFrame_long (Nat.lt_of_not_le hp)]; rfl

theorem admitLoop_answer (ms : List Message) (s : State) (r r' : Response) :
    (admitLoop ms (s.answer r)).answer r' = (admitLoop ms s).answer r' := by
  induction ms generalizing s r with
  | nil => rfl
  | cons m ms ih =>
    have hr : hasRoom (s.answer r) m.dst = hasRoom s m.dst := rfl
    unfold admitLoop
    rw [hr]
    split
    · have e : ({ s.answer r with txq := ms } : State) = ({ s with txq := ms } : State).answer r := rfl
      rw [e, ← ih _ .nothing, admitOne_answer m { s with txq := ms } r .nothing, ih]
    · rfl

theorem nodeAdmit_answer (s : State) (r r' : Response) :
    (nodeAdmit (s.answer r)).answer r' = (nodeAdmit s).answer r' := admitLoop_answer s.txq s r r'

theorem nodeRxFrame_answer (f : Frame) (s : State) (r : Response) :
    nodeRxFrame f (s.answer r) = (nodeRxFrame f s).answer r := by
  have hd : nodeRxData f (s.answer r) = (nodeRxData f s).answer r := by
    unfold nodeRxData
    by_cases h : f.seq = peerGet s.expectedRxSeq f.src
    · simp only [seqAccept_inOrder (s := s.count .rxData) h, seqAccept_inOrder (s := (s.answer r).count .rxData) h]
      rfl
    · simp only [seqAccept_notInOrder (s := s.count .rxData) h,
        seqAccept_notInOrder (s := (s.answer r).count .rxData) h]
      rfl
  rcases nodeRxFrame_cases f s with ⟨c, h⟩ | ⟨c, ⟨c1, h⟩ | ⟨c1, c2, h⟩ | ⟨c1, c2, h⟩ | ⟨c1, c2, h⟩⟩ <;>
    rcases nodeRxFrame_cases f (s.answer r) with
      ⟨c', h'⟩ | ⟨c', ⟨c1', h'⟩ | ⟨c1', c2', h'⟩ | ⟨c1', c2', h'⟩ | ⟨c1', c2', h'⟩⟩ <;>
    simp only [State.answer_cfg] at c' <;>
    first
      | (rw [h, h']; done)
      | (rw [h, h']; first | exact hd | rfl)
      | (exfalso; simp_all [typeData, typeAck])

theorem rxLoop_answer (fuel : Nat) (s : State) (r : Response) :
    rxLoop fuel (s.answer r) = (rxLoop fuel s).answer r := by
  induction fuel generalizing s with
  | zero => rfl
  | succ n ih =>
    unfold rxLoop
    simp only [decodeFrame, State.answer_cfg, State.answer_crc16Table, State.answer_rxBuf]
    cases decodeOutcome s.cfg s.crc16Table s.rxBuf with
    | noSync => rfl
    | incomplete => rfl
    | rejected k => exact ih ((noteOutcome (.rejected k) s).setRxBuf (memDrop s.rxBuf k))
    | frame f k => exact (congrArg (rxLoop n) (nodeRxFrame_answer f (s.setRxBuf (memDrop s.rxBuf k)) r)).trans (ih _)

theorem nodeRx_answer (s : State) (r : Response) : nodeRx (s.answer r) = (nodeRx s).answer r :=
  rxLoop_answer ((memAppend s.rxBuf s.rxIn).length + 1)
    { s with rxBuf := memAppend s.rxBuf s.rxIn, rxIn := [] } r

/-! ### The phases -/

theorem grows_ackq (s : State) (l : List AckNote) : Grows s { s with ackq := l } :=
  ⟨rfl, rfl, rfl, rfl, rfl, List.prefix_rfl, List.prefix_rfl, List.prefix_rfl, le_refl _, .refl _, List.suffix_rfl,
    le_refl _, emissions_same rfl rfl⟩

theorem grows_txq (s : State) (l : List Message) : Grows s { s with txq := l } :=
  ⟨rfl, rfl, rfl, rfl, rfl, List.prefix_rfl, List.prefix_rfl, List.prefix_rfl, le_refl _, .refl _, List.suffix_rfl,
    le_refl _, emissions_same rfl rfl⟩

theorem grows_rx (s : State) (b c : Bytes) : Grows s { s with rxBuf := b, rxIn := c } :=
  ⟨rfl, rfl, rfl, rfl, rfl, List.prefix_rfl, List.prefix_rfl, List.prefix_rfl, le_refl _, .refl _, List.suffix_rfl,
    le_refl _, emissions_same rfl rfl⟩

theorem ackOne_grows (a : AckNote) (s : State) : Grows s (ackOne a s) := by
  unfold ackOne
  split
  · exact swAck_grows a.src a.seq s
  · exact gbnAck_grows a.src a.seq s

/-- An ACK moves its engine and the feedback, nothing else (R203, R224). -/
theorem ackOne_frame (a : AckNote) (s : State) :
    ackOne a s =
      { s with sw := (ackOne a s).sw, gbn := (ackOne a s).gbn, feedbackOut := (ackOne a s).feedbackOut } := by
  unfold ackOne
  split
  · rcases swAck_spec a.src a.seq s with ⟨-, -, h⟩ | ⟨-, h⟩ <;> rw [h]
  · rcases gbnAck_spec a.src a.seq s with ⟨-, h⟩ | ⟨k, -, -, -, h⟩ <;> rw [h]

theorem drainAcks_grows (as : List AckNote) (s : State) : Grows s (drainAcks as s) := by
  induction as generalizing s with
  | nil => exact .refl s
  | cons a as ih => exact ((grows_ackq s as).trans (ackOne_grows a _)).trans (ih _)

/-- Draining empties the queue and moves the engines and the feedback, nothing else (R255). -/
theorem drainAcks_frame (as : List AckNote) (s : State) (hq : s.ackq = as) :
    drainAcks as s =
      { s with
        ackq := []
        sw := (drainAcks as s).sw
        gbn := (drainAcks as s).gbn
        feedbackOut := (drainAcks as s).feedbackOut } := by
  induction as generalizing s with
  | nil => exact (congrArg (fun q => ({ s with ackq := q } : State)) hq : s = _)
  | cons a as ih =>
    have h := ackOne_frame a { s with ackq := as }
    have hq : (ackOne a { s with ackq := as }).ackq = as := by rw [h]
    exact (ih (ackOne a { s with ackq := as }) hq).trans
      (congrArg (fun x : State => { x with
        ackq := []
        sw := (drainAcks as (ackOne a { s with ackq := as })).sw
        gbn := (drainAcks as (ackOne a { s with ackq := as })).gbn
        feedbackOut := (drainAcks as (ackOne a { s with ackq := as })).feedbackOut }) h)

theorem nodeAcks_grows (s : State) : Grows s (nodeAcks s) := drainAcks_grows s.ackq s

/-- The first phase empties its queue (R255). -/
theorem nodeAcks_frame (s : State) :
    nodeAcks s =
      { s with
        ackq := []
        sw := (nodeAcks s).sw
        gbn := (nodeAcks s).gbn
        feedbackOut := (nodeAcks s).feedbackOut } := drainAcks_frame s.ackq s rfl

theorem timerOne_grows (s : State) (k : Addr) : Grows s (timerOne s k) := by
  unfold timerOne
  split
  · exact swTimeout_grows k s
  · exact gbnTimeout_grows k s

/-- What a timer scan may move (R205, R226): the engines, the transmitter, the counters, the feedback and its causes. -/
def TimersMoved (s t : State) : Prop :=
  t = { s with
    sw := t.sw, gbn := t.gbn, txFreeAt := t.txFreeAt, txOut := t.txOut, cnt := t.cnt, feedbackOut := t.feedbackOut,
    trace := t.trace, draws := t.draws, drawCount := t.drawCount }

theorem TimersMoved.trans {a b c : State} (h : TimersMoved a b) (h' : TimersMoved b c) : TimersMoved a c :=
  Eq.trans h' (congrArg (fun x : State => { x with
    sw := c.sw, gbn := c.gbn, txFreeAt := c.txFreeAt, txOut := c.txOut, cnt := c.cnt, feedbackOut := c.feedbackOut,
    trace := c.trace, draws := c.draws, drawCount := c.drawCount }) h)

theorem timerOne_frame (s : State) (k : Addr) : TimersMoved s (timerOne s k) := by
  unfold timerOne
  split
  · rcases swTimeout_spec k s with ⟨-, h⟩ | ⟨-, -, -, e, ds, n, h1, h⟩ | ⟨-, -, -, h⟩ <;> rw [h] <;> rfl
  · rcases gbnTimeout_spec k s with ⟨-, h⟩ | ⟨-, -, -, evs, e, ds, n, -, -, -, -, -, -, -, h⟩ | ⟨-, -, -, h⟩ <;>
      rw [h] <;> rfl

theorem timers_grow (ks : List Addr) (s : State) : Grows s (ks.foldl timerOne s) := by
  induction ks generalizing s with
  | nil => exact .refl s
  | cons k ks ih => exact (timerOne_grows s k).trans (ih _)

theorem timers_frame (ks : List Addr) (s : State) : TimersMoved s (ks.foldl timerOne s) := by
  induction ks generalizing s with
  | nil => rfl
  | cons k ks ih => exact (timerOne_frame s k).trans (ih _)

theorem nodeTimers_grows (s : State) : Grows s (nodeTimers s) := timers_grow allAddrs s

theorem nodeTimers_frame (s : State) : TimersMoved s (nodeTimers s) := timers_frame allAddrs s

theorem admitOne_grows (m : Message) (s : State) : Grows s (admitOne m s) := by
  unfold admitOne
  split
  · exact swStart_grows m.dst m.payload s
  · exact gbnAdmit_grows m.dst m.payload s

/-- What admission may move (R201, R221, R258). -/
def AdmitMoved (s t : State) : Prop :=
  t = { s with
    txq := t.txq, nextTxSeq := t.nextTxSeq, sw := t.sw, gbn := t.gbn, txFreeAt := t.txFreeAt, txOut := t.txOut,
    cnt := t.cnt, trace := t.trace, draws := t.draws, drawCount := t.drawCount, result := t.result }

theorem AdmitMoved.trans {a b c : State} (h : AdmitMoved a b) (h' : AdmitMoved b c) : AdmitMoved a c :=
  Eq.trans h' (congrArg (fun x : State => { x with
    txq := c.txq, nextTxSeq := c.nextTxSeq, sw := c.sw, gbn := c.gbn, txFreeAt := c.txFreeAt, txOut := c.txOut,
    cnt := c.cnt, trace := c.trace, draws := c.draws, drawCount := c.drawCount, result := c.result }) h)

/-- One admission leaves the queue as it is. -/
theorem admitOne_frame (m : Message) (s : State) :
    AdmitMoved s (admitOne m s) ∧ (admitOne m s).txq = s.txq := by
  unfold admitOne
  split
  · by_cases hp : m.payload.length ≤ 255
    · obtain ⟨e, ds, n, -, h⟩ := swStart_spec m.dst m.payload s hp
      rw [h]
      exact ⟨rfl, rfl⟩
    · rw [swStart_long m.dst m.payload s (by omega)]
      exact ⟨rfl, rfl⟩
  · by_cases hp : m.payload.length ≤ 255
    · obtain ⟨e, ds, n, -, h⟩ := gbnAdmit_spec m.dst m.payload s hp
      rw [h]
      exact ⟨rfl, rfl⟩
    · rw [gbnAdmit_long m.dst m.payload s (by omega)]
      exact ⟨rfl, rfl⟩

theorem admitLoop_grows (ms : List Message) (s : State) : Grows s (admitLoop ms s) := by
  induction ms generalizing s with
  | nil => exact .refl s
  | cons m ms ih =>
    unfold admitLoop
    split
    · exact ((grows_txq s ms).trans (admitOne_grows m _)).trans (ih _)
    · exact .refl s

/-- The admission loop over the queue leaves an end of it (R258). -/
theorem admitLoop_frame (ms : List Message) (s : State) (hq : s.txq = ms) :
    AdmitMoved s (admitLoop ms s) ∧ (admitLoop ms s).txq <:+ ms := by
  induction ms generalizing s with
  | nil => exact ⟨rfl, by show s.txq <:+ []; rw [hq]⟩
  | cons m ms ih =>
    unfold admitLoop
    split
    · obtain ⟨h, h'⟩ := admitOne_frame m { s with txq := ms }
      obtain ⟨i, i'⟩ := ih (admitOne m { s with txq := ms }) h'
      have h0 : AdmitMoved s { s with txq := ms } := rfl
      exact ⟨(h0.trans h).trans i, i'.trans (List.suffix_cons m ms)⟩
    · exact ⟨rfl, by rw [hq]⟩

theorem nodeAdmit_grows (s : State) : Grows s (nodeAdmit s) := admitLoop_grows s.txq s

theorem nodeAdmit_frame (s : State) : AdmitMoved s (nodeAdmit s) ∧ (nodeAdmit s).txq <:+ s.txq :=
  admitLoop_frame s.txq s rfl

/-- What the receive loop may move (R259, R263, R264). -/
def RxMoved (s t : State) : Prop :=
  t = { s with
    rxBuf := t.rxBuf, ackq := t.ackq, expectedRxSeq := t.expectedRxSeq, deliverOut := t.deliverOut,
    txFreeAt := t.txFreeAt, txOut := t.txOut, cnt := t.cnt, trace := t.trace, draws := t.draws,
    drawCount := t.drawCount }

theorem RxMoved.trans {a b c : State} (h : RxMoved a b) (h' : RxMoved b c) : RxMoved a c :=
  Eq.trans h' (congrArg (fun x : State => { x with
    rxBuf := c.rxBuf, ackq := c.ackq, expectedRxSeq := c.expectedRxSeq, deliverOut := c.deliverOut,
    txFreeAt := c.txFreeAt, txOut := c.txOut, cnt := c.cnt, trace := c.trace, draws := c.draws,
    drawCount := c.drawCount }) h)

theorem nodeRxFrame_moved (f : Frame) (s : State) :
    RxMoved s (nodeRxFrame f s) ∧ s.ackq <+: (nodeRxFrame f s).ackq := by
  rcases nodeRxFrame_cases f s with ⟨-, h⟩ | ⟨-, ⟨-, h⟩ | ⟨-, -, h⟩ | ⟨-, -, h⟩ | ⟨-, -, h⟩⟩
  · rw [h]; exact ⟨rfl, List.prefix_rfl⟩
  · obtain ⟨e, ds, n, -, h'⟩ := nodeRxData_spec f s
    rw [h, h']
    unfold afterVerdict
    split <;> exact ⟨rfl, List.prefix_rfl⟩
  · rw [h]; exact ⟨rfl, List.prefix_rfl⟩
  · rw [h]; exact ⟨rfl, List.prefix_append _ _⟩
  · rw [h]; exact ⟨rfl, List.prefix_rfl⟩

/-- More fuel than bytes changes nothing (R261). -/
theorem rxLoop_fuel (n m : Nat) (s : State) (hn : s.rxBuf.length < n) (hm : s.rxBuf.length < m) :
    rxLoop n s = rxLoop m s := by
  induction n generalizing m s with
  | zero => omega
  | succ n ih =>
    cases m with
    | zero => omega
    | succ m =>
      unfold rxLoop
      have hb := decodeOutcome_bounds s.cfg s.crc16Table s.rxBuf
      simp only [decodeFrame]
      cases h : decodeOutcome s.cfg s.crc16Table s.rxBuf with
      | noSync => rfl
      | incomplete => rfl
      | rejected k =>
        rw [h] at hb
        apply ih <;> simp only [State.setRxBuf_rxBuf, memDrop, List.length_drop] <;> omega
      | frame f k =>
        rw [h] at hb
        have e := (nodeRxFrame_frame f ((noteOutcome (.frame f k) s).setRxBuf (memDrop s.rxBuf k))).2.2.2.1
        apply ih <;> rw [e] <;> simp only [State.setRxBuf_rxBuf, memDrop, List.length_drop] <;> omega

theorem setRxBuf_grows (s : State) (b : Bytes) : Grows s (s.setRxBuf b) := grows_rx s b s.rxIn

theorem crcMismatch_grows (n : Nat) (s : State) : Grows s (raise (.crcMismatch n) s) :=
  ⟨rfl, rfl, rfl, rfl, rfl, List.prefix_rfl, List.prefix_rfl, List.prefix_rfl, le_refl _,
    Counters.le_inc s.cnt .crcFail, List.suffix_rfl, le_refl _, emissions_same rfl rfl⟩

theorem noSync_grows (n : Nat) (s : State) : Grows s (raise (.noSync n) s) :=
  ⟨rfl, rfl, rfl, rfl, rfl, List.prefix_rfl, List.prefix_rfl, List.prefix_rfl, le_refl _, .refl _, List.suffix_rfl,
    le_refl _, emissions_same rfl rfl⟩

theorem keepLastByte_suffix (buf : Bytes) : keepLastByte buf <:+ buf :=
  keepLastByte_eq_drop buf ▸ List.drop_suffix _ _

/-- The receive loop (R259, R261): with fuel enough it ends settled, it only shortens the buffer from the front, it only
appends to the ACK queue. -/
theorem rxLoop_spec (n : Nat) (s : State) (hn : s.rxBuf.length < n) :
    Grows s (rxLoop n s) ∧ RxMoved s (rxLoop n s) ∧ Settled (rxLoop n s) ∧ s.ackq <+: (rxLoop n s).ackq ∧
      (rxLoop n s).rxBuf <:+ s.rxBuf := by
  induction n generalizing s with
  | zero => omega
  | succ n ih =>
    unfold rxLoop
    have hb := decodeOutcome_bounds s.cfg s.crc16Table s.rxBuf
    simp only [decodeFrame]
    cases h : decodeOutcome s.cfg s.crc16Table s.rxBuf with
    | noSync =>
      refine ⟨noSync_grows _ s, rfl, .inl ⟨?_, keepLastByte_length_le _⟩, List.prefix_rfl, keepLastByte_suffix _⟩
      show decodeOutcome s.cfg s.crc16Table (keepLastByte s.rxBuf) = .noSync
      unfold decodeOutcome
      rw [findSync_short (keepLastByte_length_le _)]
    | incomplete => exact ⟨.refl s, rfl, .inr h, List.prefix_rfl, List.suffix_rfl⟩
    | rejected k =>
      rw [h] at hb
      obtain ⟨h1, h2, h3, h4, h5⟩ := ih ((raise (.crcMismatch k) s).setRxBuf (memDrop s.rxBuf k))
        (by simp only [State.setRxBuf_rxBuf, memDrop, List.length_drop]; omega)
      have hm : RxMoved s ((raise (.crcMismatch k) s).setRxBuf (memDrop s.rxBuf k)) := rfl
      exact ⟨((crcMismatch_grows k s).trans (setRxBuf_grows _ _)).trans h1, hm.trans h2, h3, h4,
        h5.trans (List.drop_suffix k s.rxBuf)⟩
    | frame f k =>
      rw [h] at hb
      have e := (nodeRxFrame_frame f (s.setRxBuf (memDrop s.rxBuf k))).2.2.2.1
      obtain ⟨h1, h2, h3, h4, h5⟩ := ih (nodeRxFrame f (s.setRxBuf (memDrop s.rxBuf k)))
        (by rw [e]; simp only [State.setRxBuf_rxBuf, memDrop, List.length_drop]; omega)
      have hm : RxMoved s (s.setRxBuf (memDrop s.rxBuf k)) := rfl
      obtain ⟨g, g'⟩ := nodeRxFrame_moved f (s.setRxBuf (memDrop s.rxBuf k))
      rw [e] at h5
      exact ⟨((setRxBuf_grows s _).trans (nodeRxFrame_grows f _)).trans h1, (hm.trans g).trans h2, h3, g'.trans h4,
        h5.trans (List.drop_suffix k s.rxBuf)⟩

/-- The fourth phase (R259, R261). -/
theorem nodeRx_spec (s : State) :
    Grows s (nodeRx s) ∧ RxMoved { s with rxIn := [] } (nodeRx s) ∧ Settled (nodeRx s) ∧ s.ackq <+: (nodeRx s).ackq ∧
      (nodeRx s).rxBuf <:+ s.rxBuf ++ s.rxIn := by
  obtain ⟨h1, h2, h3, h4, h5⟩ := rxLoop_spec ((s.rxBuf ++ s.rxIn).length + 1)
    { s with rxBuf := s.rxBuf ++ s.rxIn, rxIn := [] } (Nat.lt_succ_self _)
  have h0 : RxMoved { s with rxIn := [] } { s with rxBuf := s.rxBuf ++ s.rxIn, rxIn := [] } := rfl
  exact ⟨(grows_rx s _ _).trans h1, h0.trans h2, h3, h4, h5⟩

/-- The fourth phase when the bytes hold no sync word: all but the last is dropped, and the count recorded (R259, R291). -/
theorem nodeRx_noSync {s : State} (h : findSync s.cfg (s.rxBuf ++ s.rxIn) = none) :
    nodeRx s = raise (.noSync (discardCount (s.rxBuf ++ s.rxIn))) { s with rxBuf := s.rxBuf ++ s.rxIn, rxIn := [] } := by
  unfold nodeRx rxLoop decodeFrame decodeOutcome memAppend
  simp only [h]
  rfl

/-- The fourth phase on a state with no inbound bytes, with any fuel above the buffer's length. -/
theorem nodeRx_eq_rxLoop (s : State) (h : s.rxIn = []) (n : Nat) (hn : s.rxBuf.length < n) :
    nodeRx s = rxLoop n s := by
  have e : ({ s with rxBuf := s.rxBuf ++ s.rxIn, rxIn := [] } : State) = s := by
    cases s
    simp only at h
    subst h
    simp
  show rxLoop ((s.rxBuf ++ s.rxIn).length + 1) ({ s with rxBuf := s.rxBuf ++ s.rxIn, rxIn := [] } : State) = _
  rw [e, h, List.append_nil]
  exact rxLoop_fuel _ n s (Nat.lt_succ_self _) hn

theorem tickPhases_grows (s : State) : Grows s (tickPhases s) :=
  (((nodeAcks_grows s).trans (nodeTimers_grows _)).trans (nodeAdmit_grows _)).trans (nodeRx_spec _).1

end Sys2Proof.Machine
end

