-- ==== Sys2Proof/Laws/PerInstr.lean ====
section
/-!
SUPPORT. The per-instruction families of LAWS.json. EncodeSelects: the words of an instruction are in its row's format
and begin with its first word, the select code of spec/30_encoding.md R118 for an operation.
-/

namespace Sys2Proof.Laws

/-- What EncodeSelects says of one instruction. -/
def EncodeSelects.Statement (i : Instr) : Prop :=
  (encode i).1 = i.format ∧ (encode i).2.head? = some i.firstByte

theorem EncodeSelects.reset : EncodeSelects.Statement (.reset) := ⟨rfl, rfl⟩
theorem EncodeSelects.config (r : CfgRequest) : EncodeSelects.Statement (.config r) := ⟨rfl, rfl⟩
theorem EncodeSelects.submit (dst : Addr) (payload : Bytes) : EncodeSelects.Statement (.submit dst payload) := ⟨rfl, rfl⟩
theorem EncodeSelects.rxBytes (bytes : Bytes) : EncodeSelects.Statement (.rxBytes bytes) := ⟨rfl, rfl⟩
theorem EncodeSelects.tick (now : Nat) (free : List Draw) : EncodeSelects.Statement (.tick now free) := ⟨rfl, rfl⟩
theorem EncodeSelects.shutdown : EncodeSelects.Statement (.shutdown) := ⟨rfl, rfl⟩
theorem EncodeSelects.statsRead : EncodeSelects.Statement (.statsRead) := ⟨rfl, rfl⟩
theorem EncodeSelects.crc16Table : EncodeSelects.Statement (.crc16Table) := ⟨rfl, rfl⟩
theorem EncodeSelects.crc16 (bytes : Bytes) : EncodeSelects.Statement (.crc16 bytes) := ⟨rfl, rfl⟩
theorem EncodeSelects.crc16Verify (bytes : Bytes) (c : U16) : EncodeSelects.Statement (.crc16Verify bytes c) := ⟨rfl, rfl⟩
theorem EncodeSelects.crc32Rem (bits : Bits) : EncodeSelects.Statement (.crc32Rem bits) := ⟨rfl, rfl⟩
theorem EncodeSelects.crc32Check (bits : Bits) : EncodeSelects.Statement (.crc32Check bits) := ⟨rfl, rfl⟩
theorem EncodeSelects.crc32Gen (bits : Bits) : EncodeSelects.Statement (.crc32Gen bits) := ⟨rfl, rfl⟩
theorem EncodeSelects.frameEncode (src dst seq ty : Byte) (payload : Bytes) : EncodeSelects.Statement (.frameEncode src dst seq ty payload) := ⟨rfl, rfl⟩
theorem EncodeSelects.frameDecode (buf : Bytes) : EncodeSelects.Statement (.frameDecode buf) := ⟨rfl, rfl⟩
theorem EncodeSelects.bframeEncode (addr seq : Nat) (chunk : Bits) : EncodeSelects.Statement (.bframeEncode addr seq chunk) := ⟨rfl, rfl⟩
theorem EncodeSelects.bframeCheck (bits : Bits) : EncodeSelects.Statement (.bframeCheck bits) := ⟨rfl, rfl⟩
theorem EncodeSelects.seqAlloc (dst : Addr) : EncodeSelects.Statement (.seqAlloc dst) := ⟨rfl, rfl⟩
theorem EncodeSelects.seqDist (a b : Seq) : EncodeSelects.Statement (.seqDist a b) := ⟨rfl, rfl⟩
theorem EncodeSelects.seqNewer (a b : Seq) : EncodeSelects.Statement (.seqNewer a b) := ⟨rfl, rfl⟩
theorem EncodeSelects.seqAccept (src : Addr) (n : Seq) : EncodeSelects.Statement (.seqAccept src n) := ⟨rfl, rfl⟩
theorem EncodeSelects.winPush (dst : Addr) (seq : Seq) (frame : Bytes) (lastOfMessage : Bool) : EncodeSelects.Statement (.winPush dst seq frame lastOfMessage) := ⟨rfl, rfl⟩
theorem EncodeSelects.winCover (dst : Addr) (n : Seq) : EncodeSelects.Statement (.winCover dst n) := ⟨rfl, rfl⟩
theorem EncodeSelects.winSlide (dst : Addr) (k : Nat) : EncodeSelects.Statement (.winSlide dst k) := ⟨rfl, rfl⟩
theorem EncodeSelects.winClear (dst : Addr) : EncodeSelects.Statement (.winClear dst) := ⟨rfl, rfl⟩
theorem EncodeSelects.swStart (dst : Addr) (payload : Bytes) : EncodeSelects.Statement (.swStart dst payload) := ⟨rfl, rfl⟩
theorem EncodeSelects.swAck (src : Addr) (n : Seq) : EncodeSelects.Statement (.swAck src n) := ⟨rfl, rfl⟩
theorem EncodeSelects.swTimeout (dst : Addr) : EncodeSelects.Statement (.swTimeout dst) := ⟨rfl, rfl⟩
theorem EncodeSelects.gbnAdmit (dst : Addr) (payload : Bytes) : EncodeSelects.Statement (.gbnAdmit dst payload) := ⟨rfl, rfl⟩
theorem EncodeSelects.gbnAck (src : Addr) (n : Seq) : EncodeSelects.Statement (.gbnAck src n) := ⟨rfl, rfl⟩
theorem EncodeSelects.gbnTimeout (dst : Addr) : EncodeSelects.Statement (.gbnTimeout dst) := ⟨rfl, rfl⟩
theorem EncodeSelects.macSend (frame : Bytes) (t : Nat) (free : Draw) : EncodeSelects.Statement (.macSend frame t free) := ⟨rfl, rfl⟩
theorem EncodeSelects.nodeAcks : EncodeSelects.Statement (.nodeAcks) := ⟨rfl, rfl⟩
theorem EncodeSelects.nodeTimers : EncodeSelects.Statement (.nodeTimers) := ⟨rfl, rfl⟩
theorem EncodeSelects.nodeAdmit : EncodeSelects.Statement (.nodeAdmit) := ⟨rfl, rfl⟩
theorem EncodeSelects.nodeRx : EncodeSelects.Statement (.nodeRx) := ⟨rfl, rfl⟩
theorem EncodeSelects.nodeRxFrame (f : Frame) : EncodeSelects.Statement (.nodeRxFrame f) := ⟨rfl, rfl⟩
theorem EncodeSelects.nodeRxData (f : Frame) : EncodeSelects.Statement (.nodeRxData f) := ⟨rfl, rfl⟩
theorem EncodeSelects.data (src dst : Addr) (seq : Seq) (payload : Bytes) : EncodeSelects.Statement (.data src dst seq payload) := ⟨rfl, rfl⟩
theorem EncodeSelects.ack (src dst : Addr) (seq : Seq) : EncodeSelects.Statement (.ack src dst seq) := ⟨rfl, rfl⟩
theorem EncodeSelects.ackWithPayload (src dst : Addr) (seq : Seq) (payload : Bytes) : EncodeSelects.Statement (.ackWithPayload src dst seq payload) := ⟨rfl, rfl⟩
theorem EncodeSelects.unknownType (src dst : Addr) (seq : Seq) (ty : Byte) (payload : Bytes) : EncodeSelects.Statement (.unknownType src dst seq ty payload) := ⟨rfl, rfl⟩
theorem EncodeSelects.bframe (addr : BitVec 2) (seq : BitVec 6) (chunk : Bits) (crc : U32) : EncodeSelects.Statement (.bframe addr seq chunk crc) := ⟨rfl, rfl⟩

end Sys2Proof.Laws
end

