-- ==== Sys2Proof/Tests/Slice0.lean ====
section
/-!
SUPPORT. The model's own tests: the ill-formed terms that the well-formedness check refuses, the words of
spec/30_encoding.md R118 and R119 written out for every constructor, the vectors of spec/95_test_vectors.md one step at a
time, and for every statement with hypotheses concrete states and operands that meet them. Expected values are the
spec's; a vector's name is given where there is one.
-/

set_option Elab.async false

namespace Sys2Proof.Tests

open Sys2Proof.Machine

/-! ### Small states -/

/-- RC0 of spec/00_scope.md R10, Stop-and-Wait. -/
def rc0 : CfgRequest :=
  ⟨1, 0, 4, 2, 100, 10, ⟨1, 2⟩, 5, 20, [0xAA, 0xAA, 0xAA, 0xAA], [0x2D, 0xD4], 0, 8, false, 16⟩

/-- RC0 with Go-Back-N. -/
def rcGbn : CfgRequest := { rc0 with arqMode := 1 }

/-- A node configured with r and nothing done since. -/
def node (r : CfgRequest) : State := { State.reset with mode := .run, cfg := toCfg r }

/-- The node under RC0 with profile B enabled. -/
def nodeB : State := node { rc0 with profileBEnable := true }

/-- VF-1, VF-2 and VF-6, and VF-6 with its first payload byte changed (VD-11). -/
def vf1 : Bytes := [0xAA, 0xAA, 0xAA, 0xAA, 0x2D, 0xD4, 1, 2, 0, 1, 2, 0x48, 0x69, 0xA3, 0xD1]

def vf2 : Bytes := [0xAA, 0xAA, 0xAA, 0xAA, 0x2D, 0xD4, 2, 1, 0, 2, 0, 0x45, 0x59]

def vf6 : Bytes := [0xAA, 0xAA, 0xAA, 0xAA, 0x2D, 0xD4, 2, 1, 0, 1, 2, 0x4F, 0x4B, 0x28, 4]

def vf6Bad : Bytes := [0xAA, 0xAA, 0xAA, 0xAA, 0x2D, 0xD4, 2, 1, 0, 1, 2, 0x4E, 0x4B, 0x28, 4]

/-- VF-7, the ACK of VF-6. -/
def vf7 : Bytes := [0xAA, 0xAA, 0xAA, 0xAA, 0x2D, 0xD4, 1, 2, 0, 2, 0, 0x30, 0x57]

/-- The digits "123456789". -/
def digits : Bytes := [0x31, 0x32, 0x33, 0x34, 0x35, 0x36, 0x37, 0x38, 0x39]

/-- No deferral. -/
def go : Draw := ⟨true, 0⟩

/-- A window entry. -/
def entry (n : Seq) : WinEntry := ⟨n, [n], false, true⟩

/-- The node in Go-Back-N with a window at destination 2. -/
def windowed (w : List WinEntry) (retry deadline clock : Nat) : State :=
  { (node rcGbn).setGbn 2 ⟨w, retry, deadline⟩ with clock := clock, draws := [go, go, go, go] }

/-- The node in Stop-and-Wait with an exchange at destination 2 (VA-1, VA-5). -/
def awaiting (retry deadline clock : Nat) : State :=
  { (node rc0).setSw 2 ⟨.awaitAck, vf1, 0, retry, deadline⟩ with clock := clock, draws := [⟨false, 12⟩] }

/-- The next state, if there is one. -/
def after (i : Instr) (s : State) : Option State :=
  match exec i s with
  | .next t => some t
  | _ => none

/-- The reason of a refusal. -/
def refusal (i : Instr) (s : State) : Option Refusal :=
  match exec i s with
  | .refused r => some r
  | _ => none

/-- The answer of an operation. -/
def answer (i : Instr) (s : State) : Option Response := (after i s).map State.result

/-- The answer of one step. -/
def stepMode (s : State) : Option Mode :=
  match step s with
  | .next t => some t.mode
  | _ => none

/-! ### Ill-formed terms are refused -/

theorem test_wf_frameEncode_type : (Instr.frameEncode 1 2 0 3 []).wellFormed = false := by decide

theorem test_wf_frameEncode_ack : (Instr.frameEncode 1 2 0 2 [0]).wellFormed = false := by decide

theorem test_wf_bframeEncode_addr : (Instr.bframeEncode 4 0 []).wellFormed = false := by decide

theorem test_wf_bframeEncode_seq : (Instr.bframeEncode 0 64 []).wellFormed = false := by decide

theorem test_wf_winSlide : (Instr.winSlide 2 0).wellFormed = false := by decide

theorem test_wf_swStart : (Instr.swStart 2 (List.replicate 256 0)).wellFormed = false := by decide +kernel

theorem test_wf_gbnAdmit : (Instr.gbnAdmit 2 (List.replicate 256 0)).wellFormed = false := by decide +kernel

theorem test_wf_nodeRxFrame : (Instr.nodeRxFrame ⟨2, 1, 0, 1, List.replicate 256 0⟩).wellFormed = false := by
  decide +kernel

theorem test_wf_nodeRxData : (Instr.nodeRxData ⟨2, 1, 0, 2, []⟩).wellFormed = false := by decide

theorem test_wf_data : (Instr.data 2 1 0 (List.replicate 256 0)).wellFormed = false := by decide +kernel

theorem test_wf_ackWithPayload : (Instr.ackWithPayload 2 1 0 []).wellFormed = false := by decide

theorem test_wf_unknownType_data : (Instr.unknownType 2 1 0 1 []).wellFormed = false := by decide

theorem test_wf_unknownType_ack : (Instr.unknownType 2 1 0 2 []).wellFormed = false := by decide

/-! ### Words written out (R118; operands as log 2 lays them out) -/

theorem test_decode_host :
    decode .op [0x00] = .ok .reset ∧
    decode .op [0x01, 0x01, 0x00, 4, 2, 100, 10, 1, 2, 5, 20, 4, 0xAA, 0xAA, 0xAA, 0xAA, 2, 0x2D, 0xD4, 0x00, 8, 0, 16] =
      .ok (.config rc0) ∧
    decode .op [0x02, 0x02, 2, 0x48, 0x69] = .ok (.submit 2 [0x48, 0x69]) ∧
    decode .op [0x03, 3, 0xAA, 0x2D, 0xD4] = .ok (.rxBytes [0xAA, 0x2D, 0xD4]) ∧
    decode .op [0x04, 0xAC, 0x02, 2, 0, 12, 1, 0] = .ok (.tick 300 [⟨false, 12⟩, ⟨true, 0⟩]) ∧
    decode .op [0x05] = .ok .shutdown ∧ decode .op [0x06] = .ok .statsRead := by decide +kernel

theorem test_decode_crc :
    decode .op [0x10] = .ok .crc16Table ∧ decode .op [0x11, 1, 0x41] = .ok (.crc16 [0x41]) ∧
    decode .op [0x12, 1, 0x41, 0xB9, 0x15] = .ok (.crc16Verify [0x41] 0xB915) ∧
    decode .op [0x13, 2, 1, 0] = .ok (.crc32Rem [true, false]) ∧
    decode .op [0x14, 1, 1] = .ok (.crc32Check [true]) ∧
    decode .op [0x15, 4, 0, 0, 0, 0] = .ok (.crc32Gen [false, false, false, false]) := by decide +kernel

theorem test_decode_codec :
    decode .op [0x20, 1, 2, 0, 1, 2, 0x48, 0x69] = .ok (.frameEncode 1 2 0 1 [0x48, 0x69]) ∧
    decode .op [0x21, 1, 0x2D] = .ok (.frameDecode [0x2D]) ∧
    decode .op [0x22, 2, 5, 2, 1, 0] = .ok (.bframeEncode 2 5 [true, false]) ∧
    decode .op [0x23, 1, 0] = .ok (.bframeCheck [false]) := by decide +kernel

theorem test_decode_sequencing :
    decode .op [0x30, 2] = .ok (.seqAlloc 2) ∧ decode .op [0x31, 1, 254] = .ok (.seqDist 1 254) ∧
    decode .op [0x32, 0, 255] = .ok (.seqNewer 0 255) ∧ decode .op [0x33, 2, 5] = .ok (.seqAccept 2 5) ∧
    decode .op [0x34, 2, 8, 1, 0x61, 1] = .ok (.winPush 2 8 [0x61] true) ∧
    decode .op [0x35, 2, 7] = .ok (.winCover 2 7) ∧ decode .op [0x36, 2, 3] = .ok (.winSlide 2 3) ∧
    decode .op [0x37, 2] = .ok (.winClear 2) := by decide +kernel

theorem test_decode_arq :
    decode .op [0x40, 2, 1, 0x61] = .ok (.swStart 2 [0x61]) ∧ decode .op [0x41, 2, 9] = .ok (.swAck 2 9) ∧
    decode .op [0x42, 2] = .ok (.swTimeout 2) ∧ decode .op [0x48, 2, 1, 0x61] = .ok (.gbnAdmit 2 [0x61]) ∧
    decode .op [0x49, 2, 9] = .ok (.gbnAck 2 9) ∧ decode .op [0x4A, 2] = .ok (.gbnTimeout 2) ∧
    decode .op [0x50, 1, 0x61, 10, 0, 7] = .ok (.macSend [0x61] 10 ⟨false, 7⟩) := by decide +kernel

theorem test_decode_node :
    decode .op [0x60] = .ok .nodeAcks ∧ decode .op [0x61] = .ok .nodeTimers ∧ decode .op [0x62] = .ok .nodeAdmit ∧
    decode .op [0x63] = .ok .nodeRx ∧ decode .op [0x64, 2, 1, 9, 3, 0] = .ok (.nodeRxFrame ⟨2, 1, 9, 3, []⟩) ∧
    decode .op [0x65, 2, 1, 0, 1, 1, 0x42] = .ok (.nodeRxData ⟨2, 1, 0, 1, [0x42]⟩) := by decide +kernel

/-- R91, R103, R119: the header `src dst seq type len` and the payload. -/
theorem test_decode_aFrame :
    decode .aFrame [2, 1, 0, 1, 2, 0x4F, 0x4B] = .ok (.data 2 1 0 [0x4F, 0x4B]) ∧
    decode .aFrame [2, 1, 0, 2, 0] = .ok (.ack 2 1 0) ∧
    decode .aFrame [2, 1, 9, 2, 1, 0x55] = .ok (.ackWithPayload 2 1 9 [0x55]) ∧
    decode .aFrame [2, 1, 9, 3, 0] = .ok (.unknownType 2 1 9 3 []) := by decide +kernel

/-- VB-1, bit by bit: `10` `000101` `1100101011111110` and the bits of 0xB6AA6991. -/
theorem test_decode_bFrame :
    decode .bFrame [1, 0, 0, 0, 0, 1, 0, 1, 1, 1, 0, 0, 1, 0, 1, 0, 1, 1, 1, 1, 1, 1, 1, 0,
      1, 0, 1, 1, 0, 1, 1, 0, 1, 0, 1, 0, 1, 0, 1, 0, 0, 1, 1, 0, 1, 0, 0, 1, 1, 0, 0, 1, 0, 0, 0, 1] =
      .ok (.bframe 2 5 [true, true, false, false, true, false, true, false, true, true, true, true, true, true, true, false]
        0xB6AA6991) := by decide +kernel

/-- Words that are no instruction are refused by name (U17 for a reserved code). -/
theorem test_decode_rejects :
    decode .op [0x07] = .error (.reservedOpsel 0x07) ∧ decode .op [] = .error .empty ∧
    decode .op [0x02, 0x02, 2, 0x48] = .error .truncated ∧ decode .op [0x05, 1] = .error .trailing ∧
    decode .op [0x14, 1, 2] = .error .badBit ∧ decode .bFrame [0, 1] = .error .shortBFrame := by decide +kernel

/-- The table's rows as the host writes them. -/
theorem test_decodeTableWord :
    decodeTableWord 8 0x63 = some .nodeRx ∧ decodeTableWord 8 0x04 = some (.tick 0 []) ∧
    decodeTableWord 8 0x07 = none ∧ decodeTableWord 40 0x0201090300 = some (.unknownType 2 1 9 3 []) ∧
    decodeTableWord 40 0x0201050102 = some (.data 2 1 5 [0, 0]) ∧ decodeTableWord 40 0x200 = some (.ack 0 0 0) ∧
    decodeTableWord 40 0x201 = some (.ackWithPayload 0 0 0 [0]) ∧
    decodeTableWord 56 0 = some (.bframe 0 0 (List.replicate 16 false) 0) := by decide +kernel

/-- The fetched word is the one that runs. -/
theorem test_step_runs_word :
    stepMode (State.reset.withFetchWord 8 0x00) = some .unconfigured ∧
    stepMode ((node rc0).withFetchWord 8 0x05) = some .stopped ∧
    stepMode (State.reset.withFetchWord 40 0x0201000200) = some .unconfigured := by decide +kernel

/-! ### One step of each operation -/

/-- VN-1, from a node that was running. -/
theorem test_reset :
    (after .reset (awaiting 1 100 50)).map (fun t => (t.mode, (peerGet t.sw 2).state, t.clock, peerGet t.crc16Table 0xFF)) =
      some (.unconfigured, .idle, 0, 0x1EF0) := by decide +kernel

/-- VN-2 and VN-13. -/
theorem test_config :
    (after (.config rc0) State.reset).map (fun t => (t.mode, t.result, t.cfg.arqTimeout)) = some (.run, .ok, 100) ∧
    (after (.config { rc0 with nodeAddr := 0xFF, windowSize := 0 }) State.reset).map
      (fun t => (t.mode, t.result, t.trace.map Cause.code)) = some (.unconfigured, .errConfig, [0x41]) := by decide +kernel

/-- VN-5, VN-8, VN-10, VN-12. -/
theorem test_config_clauses :
    cfgFirstFail { rc0 with windowSize := 128 } = some 3 ∧ cfgFirstFail { rc0 with windowSize := 127 } = none ∧
    cfgFirstFail { rc0 with backoffMin := 21 } = some 6 ∧ cfgFirstFail { rc0 with backoffMin := 20 } = none ∧
    cfgFirstFail { rc0 with syncWord := [0xAA, 0xAA] } = some 8 ∧ cfgFirstFail { rc0 with txqCap := 0 } = some 9 := by
  decide +kernel

/-- VN-14 at `TXQ_CAP = 1`, VN-16. -/
theorem test_submit :
    (after (.submit 2 [0x61]) (node { rc0 with txqCap := 1 })).map (fun t => (t.txq, t.result)) =
      some ([⟨2, [0x61]⟩], .ok) ∧
    answer (.submit 2 [0x62]) { node { rc0 with txqCap := 1 } with txq := [⟨2, [0x61]⟩] } = some .busy ∧
    answer (.submit 2 (List.replicate 256 0)) { node { rc0 with txqCap := 1 } with txq := [⟨2, [0x61]⟩] } =
      some .errPayloadTooLong := by decide +kernel

/-- VN-17. -/
theorem test_rxBytes :
    (after (.rxBytes [0x2D]) { node rc0 with rxIn := [0xAA, 0xAA] }).map (fun t => (t.rxIn, t.rxBuf)) =
      some ([0xAA, 0xAA, 0x2D], []) := by decide +kernel

/-- VN-19. -/
theorem test_tick_admits :
    (after (.tick 0 [go, go]) { node rc0 with txq := [⟨2, [0x61]⟩, ⟨3, [0x62]⟩, ⟨2, [0x63]⟩] }).map
      (fun t => (t.txOut.map (fun e => (e.emitTime, memByte e.frame 7)), t.txq, peerGet t.nextTxSeq 2)) =
      some ([(0, 2), (0, 3)], [⟨2, [0x63]⟩], 1) := by decide +kernel

/-- VN-20: ascending addresses. -/
theorem test_tick_timers :
    (after (.tick 100 [go, go]) ((awaiting 0 100 0).setSw 5 ⟨.awaitAck, vf6, 0, 0, 100⟩)).map (fun t => t.txOut) =
      some [⟨vf1, 100⟩, ⟨vf6, 100⟩] := by decide +kernel

/-- VN-18. -/
theorem test_shutdown :
    (after .shutdown { awaiting 0 100 0 with txq := [⟨2, [0x61]⟩] }).map
      (fun t => (t.mode, (peerGet t.sw 2).state, t.txq, t.feedbackOut)) = some (.stopped, .idle, [], []) ∧
    refusal (.tick 0 []) { node rc0 with mode := .stopped } = some (.notAccepted .stopped) := by decide +kernel

/-- VN-3. -/
theorem test_statsRead : answer .statsRead (node rc0) = some (.stats ⟨0, 0, 0, 0, 0, 0, 0, 0⟩) := by decide +kernel

/-- R131 on a table that was overwritten. -/
theorem test_crc16Table :
    (after .crc16Table { State.reset with crc16Table := Vector.replicate 256 0 }).map
      (fun t => (peerGet t.crc16Table 0x01, peerGet t.crc16Table 0x55, peerGet t.crc16Table 0xFE)) =
      some (0x1021, 0x0A50, 0x0ED1) := by decide +kernel

/-- V16-1 and V16-10. -/
theorem test_crc16 :
    answer (.crc16 []) State.reset = some (.u16 0xFFFF) ∧
    answer (.crc16 [1, 2, 0, 1, 2, 0x48, 0x69]) State.reset = some (.u16 0xA3D1) := by decide +kernel

/-- V16-7. -/
theorem test_crc16Verify :
    answer (.crc16Verify digits 0x29B1) State.reset = some (.bool true) ∧
    answer (.crc16Verify digits 0x29B0) State.reset = some (.bool false) := by decide +kernel

/-- V32-4 and V32-10. -/
theorem test_crc32Rem :
    answer (.crc32Rem [true, false]) State.reset = some (.nat 0x09823B6E) ∧
    answer (.crc32Rem (digits.flatMap (fun b => binW 8 b.toNat))) State.reset = some (.nat 0x89A1897F) := by
  decide +kernel

/-- V32-8 and V32-16. -/
theorem test_crc32Check :
    answer (.crc32Check (binW 33 0x104C11DB7)) State.reset = some (.bool true) ∧
    answer (.crc32Check [true]) State.reset = some (.bool false) := by decide +kernel

/-- V32-12. -/
theorem test_crc32Gen :
    answer (.crc32Gen (binW 16 0x05F0)) State.reset = some (.bits (binW 32 0x1E851D7C)) := by decide +kernel

/-- VF-1 and VF-2. -/
theorem test_frameEncode :
    answer (.frameEncode 1 2 0 1 [0x48, 0x69]) (node rc0) = some (.bytes vf1) ∧
    answer (.frameEncode 2 1 0 2 []) (node rc0) = some (.bytes vf2) := by decide +kernel

/-- VD-6, VD-10, VD-11, VD-12. -/
theorem test_frameDecode :
    answer (.frameDecode (vf6.take 8)) (node rc0) = some (.decoded .incomplete) ∧
    answer (.frameDecode ([0x13, 0x2D, 0x37] ++ vf6)) (node rc0) =
      some (.decoded (.frame ⟨2, 1, 0, 1, [0x4F, 0x4B]⟩ 18)) ∧
    (after (.frameDecode vf6Bad) (node rc0)).map (fun t => (t.result, t.cnt.crcFail, t.trace)) =
      some (.decoded (.rejected 5), 1, [.crcMismatch 5]) ∧
    answer (.frameDecode vf6Bad) (node { rc0 with resyncMode := 1 }) = some (.decoded (.rejected 15)) := by decide +kernel

/-- VB-1. -/
theorem test_bframeEncode :
    answer (.bframeEncode 2 5 (binW 16 0xCAFE)) nodeB =
      some (.bits ([true, false] ++ binW 6 5 ++ binW 16 0xCAFE ++ binW 32 0xB6AA6991)) := by decide +kernel

/-- VB-5 and VB-6. -/
theorem test_bframeCheck :
    answer (.bframeCheck (List.replicate 56 false)) nodeB = some (.bframe (.good 0 0 (List.replicate 16 false))) ∧
    answer (.bframeCheck (List.replicate 55 false)) nodeB = some (.bframe .bad) := by decide +kernel

/-- VS-1 at the wrap. -/
theorem test_seqAlloc :
    (after (.seqAlloc 2) ((node rc0).setNextTxSeq 2 255)).map
      (fun t => (t.result, peerGet t.nextTxSeq 2, peerGet t.nextTxSeq 3)) = some (.seq 255, 0, 0) := by decide +kernel

/-- VS-2. -/
theorem test_seqDist :
    answer (.seqDist 1 254) (node rc0) = some (.seq 3) ∧ answer (.seqDist 254 1) (node rc0) = some (.seq 253) := by
  decide +kernel

/-- VS-4: distance 128 is newer neither way, distance 127 is. -/
theorem test_seqNewer :
    answer (.seqNewer 127 0) (node rc0) = some (.bool true) ∧ answer (.seqNewer 128 0) (node rc0) = some (.bool false) ∧
    answer (.seqNewer 0 128) (node rc0) = some (.bool false) := by decide +kernel

/-- VS-5 and VS-6. -/
theorem test_seqAccept :
    (after (.seqAccept 2 255) ((node rc0).setExpectedRxSeq 2 255)).map (fun t => (t.result, peerGet t.expectedRxSeq 2)) =
      some (.accepted .inOrder 255, 0) ∧
    (after (.seqAccept 2 5) (node rc0)).map (fun t => (t.result, peerGet t.expectedRxSeq 2)) =
      some (.accepted .notInOrder 255, 0) := by decide +kernel

/-- VW-5. -/
theorem test_winPush :
    (after (.winPush 2 8 [8] true) (windowed [entry 5, entry 6, entry 7] 0 0 0)).map (fun t => (peerGet t.gbn 2).window) =
      some [entry 5, entry 6, entry 7, entry 8] := by decide +kernel

/-- VW-3. -/
theorem test_winCover :
    answer (.winCover 2 0) (windowed [entry 254, entry 255, entry 0, entry 1] 0 0 0) = some (.covered (some 3)) ∧
    answer (.winCover 2 253) (windowed [entry 254, entry 255, entry 0, entry 1] 0 0 0) = some (.covered none) := by
  decide +kernel

/-- VW-1. -/
theorem test_winSlide :
    (after (.winSlide 2 3) (windowed [entry 5, entry 6, entry 7, entry 8] 0 0 0)).map
      (fun t => (t.result, (peerGet t.gbn 2).window)) = some (.entries [entry 5, entry 6, entry 7], [entry 8]) := by
  decide +kernel

/-- VW-6. -/
theorem test_winClear :
    (after (.winClear 2) (windowed [entry 0, entry 1, entry 2] 0 0 0)).map
      (fun t => (t.result, (peerGet t.gbn 2).window)) = some (.entries [entry 0, entry 1, entry 2], []) := by
  decide +kernel

/-- VA-1. -/
theorem test_swStart :
    (after (.swStart 2 [0x48, 0x69]) { node rc0 with draws := [⟨false, 7⟩] }).map
      (fun t => (t.txOut, peerGet t.sw 2, peerGet t.nextTxSeq 2, t.txFreeAt, t.cnt.txData)) =
      some ([⟨vf1, 7⟩], ⟨.awaitAck, vf1, 0, 0, 107⟩, 1, 7, 1) := by decide +kernel

/-- VA-3 and VA-2. -/
theorem test_swAck :
    (after (.swAck 2 0) (awaiting 0 107 0)).map (fun t => (t.feedbackOut, (peerGet t.sw 2).state)) =
      some ([⟨2, 0, .success⟩], .idle) ∧
    (after (.swAck 2 255) (awaiting 0 107 0)).map (fun t => (t.feedbackOut, (peerGet t.sw 2).state)) =
      some ([], .awaitAck) := by decide +kernel

/-- VA-6 and VA-7. -/
theorem test_swTimeout :
    (after (.swTimeout 2) (awaiting 0 100 100)).map (fun t => (t.txOut, peerGet t.sw 2, t.cnt)) =
      some ([⟨vf1, 112⟩], ⟨.awaitAck, vf1, 0, 1, 212⟩, ⟨1, 0, 0, 0, 1, 0, 1, 0⟩) ∧
    (after (.swTimeout 2) (awaiting 2 312 312)).map (fun t => (t.txOut, (peerGet t.sw 2).state, t.feedbackOut)) =
      some ([], .idle, [⟨2, 0, .failure⟩]) := by decide +kernel

/-- VG-1 and VG-2. -/
theorem test_gbnAdmit :
    (after (.gbnAdmit 2 [0x61]) ((windowed [] 1 7 0).setNextTxSeq 2 5)).map
      (fun t => ((peerGet t.gbn 2).window.map WinEntry.seq, (peerGet t.gbn 2).retry, (peerGet t.gbn 2).deadline)) =
      some ([5], 0, 100) ∧
    (after (.gbnAdmit 2 [0x62]) ((windowed [entry 5] 0 100 30).setNextTxSeq 2 6)).map
      (fun t => ((peerGet t.gbn 2).window.map WinEntry.seq, (peerGet t.gbn 2).deadline, t.txOut.map TxEvent.emitTime)) =
      some ([5, 6], 100, [30]) := by decide +kernel

/-- VG-3 and VG-5. -/
theorem test_gbnAck :
    (after (.gbnAck 2 7) (windowed [entry 5, entry 6, entry 7, entry 8] 1 100 20)).map
      (fun t => (t.feedbackOut, peerGet t.gbn 2)) =
      some ([⟨2, 5, .success⟩, ⟨2, 6, .success⟩, ⟨2, 7, .success⟩], ⟨[entry 8], 0, 120⟩) ∧
    (after (.gbnAck 2 9) (windowed [entry 5, entry 6, entry 7, entry 8] 1 100 20)).map
      (fun t => (t.feedbackOut, peerGet t.gbn 2)) = some ([], ⟨[entry 5, entry 6, entry 7, entry 8], 1, 100⟩) := by
  decide +kernel

/-- VG-7 and VG-8. -/
theorem test_gbnTimeout :
    (after (.gbnTimeout 2) (windowed [entry 8, entry 9] 0 120 120)).map (fun t => (t.txOut, peerGet t.gbn 2, t.cnt)) =
      some ([⟨[8], 120⟩, ⟨[9], 120⟩], ⟨[entry 8, entry 9], 1, 220⟩, ⟨2, 0, 0, 0, 2, 0, 1, 0⟩) ∧
    (after (.gbnTimeout 2) (windowed [entry 0, entry 1, entry 2] 2 200 200)).map (fun t => (t.feedbackOut, peerGet t.gbn 2)) =
      some ([⟨2, 0, .failure⟩, ⟨2, 1, .failure⟩, ⟨2, 2, .failure⟩], ⟨[], 0, 200⟩) := by decide +kernel

/-- VM-2, its third line; and VM-5: (false, 4) is no draw, so the next pair is used (log 7). -/
theorem test_macSend :
    (after (.macSend vf1 10 ⟨false, 20⟩) { node rc0 with txFreeAt := 7 }).map (fun t => (t.result, t.txFreeAt)) =
      some (.time 30, 30) ∧
    answer (.macSend vf1 0 ⟨false, 4⟩) { node rc0 with draws := [⟨false, 5⟩] } = some (.time 5) := by decide +kernel

/-- S1 step 5 (a). -/
theorem test_nodeAcks :
    (after .nodeAcks { awaiting 0 107 20 with ackq := [⟨3, 0⟩, ⟨2, 0⟩] }).map (fun t => (t.ackq, t.feedbackOut)) =
      some ([], [⟨2, 0, .success⟩]) := by decide +kernel

/-- VG-6 and VG-7 through the scan. -/
theorem test_nodeTimers :
    (after .nodeTimers (windowed [entry 8, entry 9] 0 120 119)).map (fun t => t.txOut) = some [] ∧
    (after .nodeTimers (windowed [entry 8, entry 9] 0 120 120)).map (fun t => t.txOut) =
      some [⟨[8], 120⟩, ⟨[9], 120⟩] := by decide +kernel

/-- R258: the head without room stops the loop. -/
theorem test_nodeAdmit :
    (after .nodeAdmit { awaiting 0 107 0 with txq := [⟨2, [0x61]⟩, ⟨3, [0x62]⟩] }).map (fun t => (t.txq, t.txOut)) =
      some ([⟨2, [0x61]⟩, ⟨3, [0x62]⟩], []) := by decide +kernel

/-- VE-1; and S4 steps 3 and 4. -/
theorem test_nodeRx :
    (after .nodeRx { node rc0 with rxBuf := [1, 2], rxIn := [3, 0x2D] }).map (fun t => (t.rxBuf, t.trace)) =
      some ([0x2D], [.noSync 3]) ∧
    (after .nodeRx { node rc0 with rxBuf := [0xAA], rxIn := vf6.drop 2, draws := [go] }).map
      (fun t => (t.deliverOut, t.txOut, t.rxBuf)) = some ([⟨2, [0x4F, 0x4B]⟩], [⟨vf7, 0⟩], []) := by decide +kernel

/-- VX-3 and VX-2 after the codec. -/
theorem test_nodeRxFrame :
    (after (.nodeRxFrame ⟨2, 7, 0, 1, [0x5A]⟩) (node rc0)).map (fun t => (t.cnt.rxData, t.cnt.protoViolation)) =
      some (0, 0) ∧
    (after (.nodeRxFrame ⟨2, 1, 9, 3, []⟩) (node rc0)).map (fun t => (t.cnt.rxData, t.cnt.protoViolation)) =
      some (0, 1) := by decide +kernel

/-- S4 step 5: a duplicate is acknowledged and not delivered. -/
theorem test_nodeRxData :
    (after (.nodeRxData ⟨2, 1, 0, 1, [0x4F, 0x4B]⟩) { (node rc0).setExpectedRxSeq 2 1 with draws := [go] }).map
      (fun t => (t.deliverOut, t.txOut, peerGet t.expectedRxSeq 2)) = some ([], [⟨vf7, 0⟩], 1) := by decide +kernel

/-- VX-4: broadcast DATA is delivered and acknowledged. -/
theorem test_data :
    (after (.data 2 0xFF 0 [0x42]) { node rc0 with draws := [go] }).map (fun t => (t.deliverOut, t.txOut)) =
      some ([⟨2, [0x42]⟩], [⟨vf7, 0⟩]) := by decide +kernel

/-- S1 step 4: an ACK is counted and queued. -/
theorem test_ack :
    (after (.ack 2 1 0) (node rc0)).map (fun t => (t.cnt.rxAck, t.ackq)) = some (1, [⟨2, 0⟩]) := by decide +kernel

/-- VX-1, VE-3. -/
theorem test_ackWithPayload :
    (after (.ackWithPayload 2 1 9 [0x55]) (node rc0)).map (fun t => (t.cnt.rxAck, t.cnt.protoViolation, t.trace.map Cause.code)) =
      some (0, 1, [0x20]) := by decide +kernel

/-- VX-2, VE-4. -/
theorem test_unknownType :
    (after (.unknownType 2 1 9 3 []) (node rc0)).map (fun t => (t.cnt.protoViolation, t.trace.map Cause.code)) =
      some (1, [0x21]) := by decide +kernel

/-- VB-2 and VB-3. -/
theorem test_bframe :
    answer (.bframe 2 5 (binW 16 0xCAFE) 0xB6AA6991) nodeB = some (.bframe (.good 2 5 (binW 16 0xCAFE))) ∧
    answer (.bframe 2 5 (binW 16 0xCAFE) 0xB6AA6990) nodeB = some (.bframe .bad) := by decide +kernel

/-! ### States and operands that meet the statements' hypotheses -/

/-- Where the search finds the sync word, it stands first. -/
theorem firstSync_of_find {buf : Bytes} {a b : Byte} {i : Nat} (h : find2 buf a b = some i) : FirstSyncAt buf a b i :=
  ⟨⟨(find2_some h).2.1, (find2_some h).2.2.1⟩, (find2_some h).2.2.2⟩

/-- RC0 satisfies R9. -/
theorem anchored_rc0 : SyncAnchored (node rc0).cfg := ⟨0x2D, 0xD4, rfl, firstSync_of_find (by decide +kernel)⟩

/-- The same node with no deferral at all; RC0 allows two retries. -/
def nodeSure (r : CfgRequest) : State := node { r with alohaProb := ⟨1, 1⟩ }

/-- A step that the evaluation finds is there. -/
theorem exists_next {i : Instr} {s : State} (h : (after i s).isSome = true) : ∃ t, exec i s = .next t := by
  unfold after at h
  split at h
  · next t e => exact ⟨t, e⟩
  · cases h

/-- A timeout operation run at each of these clocks, if each has reached the deadline. -/
def expire (op : Instr) (deadline : State → Nat) : List Nat → State → Option State
  | [], s => some s
  | now :: rest, s => if deadline s ≤ now then (after op { s with clock := now }).bind (expire op deadline rest) else none

/-- Expiries that the evaluation finds are there. -/
theorem expiries_of_expire {op : Instr} {deadline : State → Nat} {clocks : List Nat} {s : State}
    (h : (expire op deadline clocks s).isSome = true) : ∃ t, Expiries op deadline clocks.length s t := by
  induction clocks generalizing s with
  | nil => exact ⟨s, .none s⟩
  | cons now rest ih =>
    unfold expire after at h
    split at h
    · next hd =>
      split at h
      · next s' e =>
        obtain ⟨t, ht⟩ := ih h
        exact ⟨t, .expiry _ _ _ _ now hd e ht⟩
      · cases h
    · cases h

theorem witness_Crc32RemIsLinear : bitsVal [true, true] = bitsVal [true] ^^^ bitsVal [true, false] := by decide

theorem witness_Crc32CheckAcceptsExactlyTheMultiples : (List.replicate 32 false : Bits).length < 33 := by decide

theorem witness_FrameEncodeWritesTheLayout :
    (List.replicate 255 0 : Bytes).length ≤ 255 ∧ ((0x02 : Byte) = 0x01 ∨ ((0x02 : Byte) = 0x02 ∧ ([] : Bytes) = [])) ∧
    ((0x01 : Byte) = 0x01 ∨ ((0x01 : Byte) = 0x02 ∧ (List.replicate 255 0 : Bytes) = [])) ∧
    ¬ ((0x03 : Byte) = 0x01 ∨ ((0x03 : Byte) = 0x02 ∧ ([] : Bytes) = [])) ∧
    ¬ ((0x02 : Byte) = 0x01 ∨ ((0x02 : Byte) = 0x02 ∧ ([0] : Bytes) = [])) := by decide +kernel

theorem witness_FrameEncodeRejectsOversizedPayloads : 255 < (List.replicate 256 0 : Bytes).length := by decide +kernel

/-- The five cases, with the lengths at which one outcome gives way to the next. -/
theorem witness_FrameDecodeJudgesTheFirstCandidate :
    (node rc0).cfg.syncWord = [0x2D, 0xD4] ∧ (∀ j, ¬ SyncAt [1, 2, 3, 0x2D] 0x2D 0xD4 j) ∧
    (FirstSyncAt (vf6.take 12) 0x2D 0xD4 4 ∧ (vf6.take 12).length < 4 + 9) ∧
    (FirstSyncAt (vf6.take 14) 0x2D 0xD4 4 ∧ 4 + 9 ≤ (vf6.take 14).length ∧
      2 = ((vf6.take 14).getD (4 + 6) 0).toNat ∧ (vf6.take 14).length < 4 + 9 + 2) ∧
    (FirstSyncAt vf6 0x2D 0xD4 4 ∧ 4 + 9 + 2 ≤ vf6.length ∧
      (0x2804 : U16) = vf6.getD (4 + 7 + 2) 0 ++ vf6.getD (4 + 8 + 2) 0 ∧
      crc16Of (node rc0).crc16Table ((vf6.drop (4 + 2)).take (5 + 2)) = 0x2804) ∧
    (FirstSyncAt vf6Bad 0x2D 0xD4 4 ∧ 4 + 9 + 2 ≤ vf6Bad.length ∧
      crc16Of (node rc0).crc16Table ((vf6Bad.drop (4 + 2)).take (5 + 2)) ≠ 0x2804) :=
  ⟨rfl, find2_none (by decide +kernel), ⟨firstSync_of_find (by decide +kernel), by decide +kernel⟩,
    ⟨firstSync_of_find (by decide +kernel), by decide +kernel⟩,
    ⟨firstSync_of_find (by decide +kernel), by decide +kernel⟩,
    ⟨firstSync_of_find (by decide +kernel), by decide +kernel⟩⟩

theorem witness_FrameDecodeInvertsEncode :
    SyncAnchored (node rc0).cfg ∧ (Frame.mk 1 2 3 1 (List.replicate 255 0)).payload.length ≤ 255 ∧
    (Frame.mk 1 2 3 2 []).ty = 0x02 ∧ (Frame.mk 1 2 3 2 []).payload = [] :=
  ⟨anchored_rc0, by decide +kernel, rfl, rfl⟩

theorem witness_ResynchronisationLosesNoSyncWord :
    (node rc0).cfg.syncWord = [0x2D, 0xD4] ∧ (node rc0).cfg.resyncMode = .byte ∧
    (∃ t, exec (.frameDecode vf6Bad) (node rc0) = .next t ∧ t.result = .decoded (.rejected 5)) ∧
    (∀ j, ¬ SyncAt ({ node rc0 with rxBuf := [1], rxIn := [2, 3, 0x2D] }.rxBuf ++ [2, 3, 0x2D]) 0x2D 0xD4 j) ∧
    ∃ t, exec .nodeRx { node rc0 with rxBuf := [1], rxIn := [2, 3, 0x2D] } = .next t ∧ t.rxBuf = [0x2D] :=
  ⟨rfl, rfl, ⟨_, rfl, by decide +kernel⟩, find2_none (by decide +kernel), ⟨_, rfl, by decide +kernel⟩⟩

theorem witness_BframeEncodeWritesTheLayout :
    nodeB.mode ≠ .unconfigured ∧ nodeB.cfg.profileBEnable = true ∧ (binW 16 0xCAFE).length = nodeB.cfg.chunkBits ∧
    (3 ≤ 3 ∧ 63 ≤ 63) ∧ ¬ (4 ≤ 3 ∧ 63 ≤ 63 ∧ (binW 16 0).length = nodeB.cfg.chunkBits) ∧
    ¬ (3 ≤ 3 ∧ 64 ≤ 63 ∧ (binW 16 0).length = nodeB.cfg.chunkBits) ∧
    ¬ (3 ≤ 3 ∧ 63 ≤ 63 ∧ (binW 15 0).length = nodeB.cfg.chunkBits) ∧
    ((node rc0).mode ≠ .unconfigured ∧ (node rc0).cfg.profileBEnable = false) ∧ State.reset.mode = .unconfigured := by
  decide +kernel

theorem witness_BframeCheckSplitsTheFields :
    nodeB.mode ≠ .unconfigured ∧ nodeB.cfg.profileBEnable = true ∧ (binW 55 0).length ≠ 40 + nodeB.cfg.chunkBits ∧
    ((binW 56 0).length = 40 + nodeB.cfg.chunkBits ∧ crc32RemOf (binW 56 0) = 0) ∧
    ((binW 56 1).length = 40 + nodeB.cfg.chunkBits ∧ crc32RemOf (binW 56 1) ≠ 0) ∧
    ((node rc0).mode ≠ .unconfigured ∧ (node rc0).cfg.profileBEnable = false) ∧ State.reset.mode = .unconfigured := by
  decide +kernel

theorem witness_BframeOnTheWireIsChecked :
    nodeB.mode ≠ .unconfigured ∧ nodeB.cfg.profileBEnable = true ∧ (binW 16 0xCAFE).length = nodeB.cfg.chunkBits ∧
    (0xB6AA6991 : U32).toNat =
      crc32RemOf (binW 2 (2 : BitVec 2).toNat ++ binW 6 (5 : BitVec 6).toNat ++ binW 16 0xCAFE) ∧
    ¬ ((binW 16 0xCAFE).length = nodeB.cfg.chunkBits ∧ (0xB6AA6990 : U32).toNat =
      crc32RemOf (binW 2 (2 : BitVec 2).toNat ++ binW 6 (5 : BitVec 6).toNat ++ binW 16 0xCAFE)) ∧
    ((node rc0).mode ≠ .unconfigured ∧ (node rc0).cfg.profileBEnable = false) ∧ State.reset.mode = .unconfigured := by
  decide +kernel

theorem witness_BframeCheckInvertsEncode :
    nodeB.mode ≠ .unconfigured ∧ nodeB.cfg.profileBEnable = true ∧ 3 ≤ 3 ∧ 63 ≤ 63 ∧
    (binW 16 0xCAFE).length = nodeB.cfg.chunkBits := by decide +kernel

theorem witness_SeqDistanceAndNewerTest :
    129 ≤ ((0 : Seq) - 127).toNat ∧ ((128 : Seq) - 0).toNat = 128 ∧ ((127 : Seq) - 0).toNat = 127 := by decide +kernel

theorem witness_SeqAcceptClassifiesAndAdvances :
    (255 : Seq) = peerGet ((node rc0).setExpectedRxSeq 2 255).expectedRxSeq 2 ∧
    (254 : Seq) ≠ peerGet ((node rc0).setExpectedRxSeq 2 255).expectedRxSeq 2 := by decide +kernel

theorem witness_WinPushAppendsTheEntry :
    (peerGet (windowed [entry 5, entry 6, entry 7] 0 0 0).gbn 2).window.length <
      (windowed [entry 5, entry 6, entry 7] 0 0 0).cfg.windowSize ∧
    (windowed [entry 5, entry 6, entry 7, entry 8] 0 0 0).cfg.windowSize ≤
      (peerGet (windowed [entry 5, entry 6, entry 7, entry 8] 0 0 0).gbn 2).window.length := by decide +kernel

theorem witness_WinCoverCountsFromTheBase :
    (peerGet (windowed [] 0 0 0).gbn 2).window = [] ∧
    entry 254 ∈ (peerGet (windowed [entry 254, entry 255] 0 0 0).gbn 2).window.head? ∧
    (1 = ((255 : Seq) - 254).toNat ∧ 1 < (peerGet (windowed [entry 254, entry 255] 0 0 0).gbn 2).window.length) ∧
    (2 = ((0 : Seq) - 254).toNat ∧ (peerGet (windowed [entry 254, entry 255] 0 0 0).gbn 2).window.length ≤ 2) := by
  decide +kernel

/-- The window of VW-3 is contiguous. -/
theorem contiguous_wrap : Contiguous [entry 254, entry 255, entry 0, entry 1] := by
  intro base hb k hk
  obtain rfl : entry 254 = base := by simpa using hb
  have hk' : k < 4 := hk
  interval_cases k <;> rfl

theorem witness_WinCoverIsWindowMembership :
    Contiguous (peerGet (windowed [entry 254, entry 255, entry 0, entry 1] 0 0 0).gbn 2).window ∧
    (peerGet (windowed [entry 254, entry 255, entry 0, entry 1] 0 0 0).gbn 2).window.length ≤ 127 ∧
    ∃ t, exec (.winCover 2 0) (windowed [entry 254, entry 255, entry 0, entry 1] 0 0 0) = .next t ∧
      t.result = .covered (some 3) := by
  have h : (peerGet (windowed [entry 254, entry 255, entry 0, entry 1] 0 0 0).gbn 2).window =
      [entry 254, entry 255, entry 0, entry 1] := by decide +kernel
  rw [h]
  exact ⟨contiguous_wrap, by decide, _, rfl, by decide +kernel⟩

theorem witness_WinSlideAndClearRemoveTheOldest :
    (1 ≤ 1 ∧ 1 ≤ 2 ∧ 2 ≤ (peerGet (windowed [entry 5, entry 6] 0 0 0).gbn 2).window.length) ∧
    (0 = 0 ∨ (peerGet (windowed [entry 5, entry 6] 0 0 0).gbn 2).window.length < 0) ∧
    (3 = 0 ∨ (peerGet (windowed [entry 5, entry 6] 0 0 0).gbn 2).window.length < 3) := by decide +kernel

theorem witness_SwStartBeginsTheExchange :
    ((peerGet (node rc0).sw 2).state = .idle ∧ (List.replicate 255 0 : Bytes).length ≤ 255 ∧
      (node rc0).cfg.backoffMin ≤ (node rc0).cfg.backoffMax) ∧
    (peerGet (awaiting 0 100 0).sw 2).state = .awaitAck := by decide +kernel

theorem witness_SwAckEndsTheMatchingExchange :
    ((peerGet (awaiting 0 100 0).sw 2).state = .awaitAck ∧ (peerGet (awaiting 0 100 0).sw 2).seq = 0) ∧
    ¬ ((peerGet (awaiting 0 100 0).sw 2).state = .awaitAck ∧ (peerGet (awaiting 0 100 0).sw 2).seq = 255) ∧
    ¬ ((peerGet (node rc0).sw 2).state = .awaitAck ∧ (peerGet (node rc0).sw 2).seq = 0) := by decide +kernel

/-- RC0 allows two retries: clocks 99 and 100 against deadline 100, retry counts 1 and 2. -/
theorem witness_SwTimeoutRetriesOrFails :
    ((peerGet (node rc0).sw 2).state = .idle ∧ (awaiting 0 100 99).clock < (peerGet (awaiting 0 100 99).sw 2).deadline) ∧
    ((peerGet (awaiting 1 100 100).sw 2).state = .awaitAck ∧
      (peerGet (awaiting 1 100 100).sw 2).deadline ≤ (awaiting 1 100 100).clock ∧
      (peerGet (awaiting 1 100 100).sw 2).retry < (awaiting 1 100 100).cfg.maxRetries ∧
      (awaiting 1 100 100).cfg.backoffMin ≤ (awaiting 1 100 100).cfg.backoffMax) ∧
    ((awaiting 2 100 100).cfg.maxRetries ≤ (peerGet (awaiting 2 100 100).sw 2).retry) := by decide +kernel

/-- Two retries allowed: three expiries, at the deadlines 100, 200 and 300. -/
theorem witness_SwSendsRetriesPlusOneTimesThenFails :
    (peerGet (nodeSure rc0).sw 2).state = .idle ∧ ([0x48] : Bytes).length ≤ 255 ∧
    ∃ s1 t, exec (.swStart 2 [0x48]) (nodeSure rc0) = .next s1 ∧
      Expiries (.swTimeout 2) (fun u => (peerGet u.sw 2).deadline) ((nodeSure rc0).cfg.maxRetries + 1) s1 t := by
  have h : exchangeIdle (nodeSure rc0) 2 = true := by decide +kernel
  obtain ⟨t, ht⟩ := expiries_of_expire (op := .swTimeout 2) (deadline := fun u => (peerGet u.sw 2).deadline)
    (clocks := [100, 200, 300]) (s := swStart 2 [0x48] ((nodeSure rc0).answer .nothing)) (by decide +kernel)
  exact ⟨by decide +kernel, by decide, _, t, by simp only [exec, execSwStart, h, if_true], ht⟩

theorem witness_GbnAdmitExtendsTheWindow :
    ((peerGet (windowed [] 0 0 0).gbn 2).window.length < (windowed [] 0 0 0).cfg.windowSize ∧
      (List.replicate 255 0 : Bytes).length ≤ 255 ∧
      (windowed [] 0 0 0).cfg.backoffMin ≤ (windowed [] 0 0 0).cfg.backoffMax) ∧
    (peerGet (windowed [entry 5, entry 6, entry 7] 0 0 0).gbn 2).window.length <
      (windowed [entry 5, entry 6, entry 7] 0 0 0).cfg.windowSize ∧
    (windowed [entry 5, entry 6, entry 7, entry 8] 0 0 0).cfg.windowSize ≤
      (peerGet (windowed [entry 5, entry 6, entry 7, entry 8] 0 0 0).gbn 2).window.length := by decide +kernel

theorem witness_GbnAckSlidesTheWindow :
    (peerGet (windowed [] 0 0 0).gbn 2).window = [] ∧
    (entry 5 ∈ (peerGet (windowed [entry 5, entry 6] 0 0 0).gbn 2).window.head? ∧
      (peerGet (windowed [entry 5, entry 6] 0 0 0).gbn 2).window.length ≤ ((7 : Seq) - (entry 5).seq).toNat) ∧
    (1 = ((5 : Seq) - (entry 5).seq).toNat + 1 ∧ 1 ≤ (peerGet (windowed [entry 5, entry 6] 0 0 0).gbn 2).window.length) ∧
    (2 = ((6 : Seq) - (entry 5).seq).toNat + 1 ∧ 2 ≤ (peerGet (windowed [entry 5, entry 6] 0 0 0).gbn 2).window.length) := by
  decide +kernel

theorem witness_GbnTimeoutResendsTheWindowOrFails :
    ((peerGet (windowed [] 0 0 0).gbn 2).window = [] ∧
      (windowed [entry 8] 0 120 119).clock < (peerGet (windowed [entry 8] 0 120 119).gbn 2).deadline) ∧
    ((peerGet (windowed [entry 8] 1 120 120).gbn 2).window ≠ [] ∧
      (peerGet (windowed [entry 8] 1 120 120).gbn 2).deadline ≤ (windowed [entry 8] 1 120 120).clock ∧
      (peerGet (windowed [entry 8] 1 120 120).gbn 2).retry + 1 ≤ (windowed [entry 8] 1 120 120).cfg.maxRetries ∧
      (windowed [entry 8] 1 120 120).cfg.backoffMin ≤ (windowed [entry 8] 1 120 120).cfg.backoffMax) ∧
    ((windowed [entry 8] 2 120 120).cfg.maxRetries < (peerGet (windowed [entry 8] 2 120 120).gbn 2).retry + 1) := by
  decide +kernel

/-- Two retries allowed: three expiries, at the deadlines 100, 200 and 300. -/
theorem witness_GbnResendsRetriesTimesThenFails :
    ∃ s t, (peerGet s.gbn 2).window = [entry 8, entry 9] ∧ (peerGet s.gbn 2).retry = 0 ∧
      Expiries (.gbnTimeout 2) (fun u => (peerGet u.gbn 2).deadline) (s.cfg.maxRetries + 1) s t := by
  obtain ⟨t, ht⟩ := expiries_of_expire (op := .gbnTimeout 2) (deadline := fun u => (peerGet u.gbn 2).deadline)
    (clocks := [100, 200, 300]) (s := (nodeSure rcGbn).setGbn 2 ⟨[entry 8, entry 9], 0, 100⟩) (by decide +kernel)
  exact ⟨(nodeSure rcGbn).setGbn 2 ⟨[entry 8, entry 9], 0, 100⟩, t, by decide +kernel, by decide +kernel, ht⟩

theorem witness_DestinationsAreIndependent :
    (3 : Addr) ≠ 2 ∧ (∃ t, exec (.gbnAdmit 2 [0x61]) (windowed [] 0 0 0) = .next t) ∧
    (∃ t, exec (.gbnAck 2 5) (windowed [entry 5] 0 0 0) = .next t) ∧
    (∃ t, exec (.gbnTimeout 2) (windowed [entry 5] 0 0 0) = .next t) ∧
    (∃ t, exec (.swStart 2 [0x61]) (node rc0) = .next t) ∧ (∃ t, exec (.swAck 2 0) (awaiting 0 100 0) = .next t) ∧
    ∃ t, exec (.swTimeout 2) (awaiting 0 100 100) = .next t :=
  ⟨by decide, exists_next (by decide +kernel), exists_next (by decide +kernel), exists_next (by decide +kernel),
    exists_next (by decide +kernel), exists_next (by decide +kernel), exists_next (by decide +kernel)⟩

theorem witness_OversizedAdmissionsHaveNoOtherEffect :
    255 < (List.replicate 256 0 : Bytes).length ∧ (peerGet (node rc0).sw 2).state = .idle ∧
    (peerGet (node rc0).gbn 2).window.length < (node rc0).cfg.windowSize := by decide +kernel

/-- RC0 allows deferrals from 5 to 20 and no deferral (VM-5). -/
theorem witness_MacSendReleasesTheFrame :
    (node rc0).cfg.backoffMin ≤ (node rc0).cfg.backoffMax ∧ drawLegal (node rc0).cfg ⟨false, 5⟩ = true ∧
    drawLegal (node rc0).cfg ⟨false, 20⟩ = true ∧ drawLegal (node rc0).cfg ⟨true, 0⟩ = true := by decide +kernel

theorem witness_MacSendDelayIsBounded :
    (node rc0).cfg.backoffMin ≤ (node rc0).cfg.backoffMax ∧ (node rc0).txFreeAt ≤ 0 ∧ ∃ u, SendsAt 0 1 (node rc0) u :=
  ⟨by decide +kernel, by decide +kernel, _, .send 0 _ _ _ vf1 ⟨false, 20⟩ rfl (.none _)⟩

theorem witness_NodeAcksDrainsTheQueue :
    (node rc0).ackq = [] ∧
    ((awaiting 0 100 0).cfg.arqMode = .sw ∧ ∃ s1, exec (.swAck 2 0) { awaiting 0 100 0 with ackq := [] } = .next s1) ∧
    ((windowed [entry 5] 0 0 0).cfg.arqMode = .gbn ∧
      ∃ s1, exec (.gbnAck 2 5) { windowed [entry 5] 0 0 0 with ackq := [] } = .next s1) :=
  ⟨rfl, ⟨rfl, exists_next (by decide +kernel)⟩, ⟨rfl, exists_next (by decide +kernel)⟩⟩

theorem witness_NodeTimersScansEveryDestinationOnce :
    0 < 256 ∧ 255 < 256 ∧ (node rc0).cfg.arqMode = .sw ∧ (node rcGbn).cfg.arqMode = .gbn := by decide +kernel

theorem witness_NodeAdmitIsHeadOfLine :
    (node rc0).txq = [] ∧
    ((awaiting 0 100 0).cfg.arqMode = .sw ∧ (peerGet (awaiting 0 100 0).sw 2).state = .awaitAck) ∧
    ((windowed [entry 5, entry 6, entry 7, entry 8] 0 0 0).cfg.arqMode = .gbn ∧
      (windowed [entry 5, entry 6, entry 7, entry 8] 0 0 0).cfg.windowSize ≤
        (peerGet (windowed [entry 5, entry 6, entry 7, entry 8] 0 0 0).gbn 2).window.length) := by decide +kernel

theorem witness_NodeAdmitIsHeadOfLine_room :
    ((node rc0).cfg.arqMode = .sw ∧ ∃ s1, exec (.swStart 2 [0x61]) { node rc0 with txq := [] } = .next s1) ∧
    ((windowed [] 0 0 0).cfg.arqMode = .gbn ∧
      ∃ s1, exec (.gbnAdmit 2 [0x61]) { windowed [] 0 0 0 with txq := [] } = .next s1) :=
  ⟨⟨rfl, exists_next (by decide +kernel)⟩, ⟨rfl, exists_next (by decide +kernel)⟩⟩

/-- The four outcomes, on VE-1, the first 14 bytes of VF-6, VD-11 and VF-6. -/
theorem witness_NodeRxHandlesEachOutcome :
    (answer (.frameDecode [1, 2, 3, 0x2D]) { node rc0 with rxBuf := [1, 2, 3, 0x2D] } = some (.decoded .noSync)) ∧
    (answer (.frameDecode (vf6.take 14)) { node rc0 with rxBuf := vf6.take 14 } = some (.decoded .incomplete)) ∧
    (answer (.frameDecode vf6Bad) { node rc0 with rxBuf := vf6Bad } = some (.decoded (.rejected 5))) ∧
    (answer (.frameDecode vf6) { node rc0 with rxBuf := vf6 } =
      some (.decoded (.frame ⟨2, 1, 0, 1, [0x4F, 0x4B]⟩ 15))) ∧
    (node rc0).rxIn = [] ∧ (after (.nodeRxFrame ⟨2, 1, 0, 1, [0x4F, 0x4B]⟩) (node rc0)).isSome = true := by
  decide +kernel

theorem witness_NodeRxFrameRoutesByAddressAndType :
    ((7 : Byte) ≠ (node rc0).cfg.nodeAddr ∧ (7 : Byte) ≠ 0xFF) ∧ (1 : Byte) = (node rc0).cfg.nodeAddr ∧
    (1 : Byte) = 0x01 ∧ ((2 : Byte) = 0x02 ∧ ([0x55] : Bytes) ≠ []) ∧ ((0 : Byte) ≠ 0x01 ∧ (3 : Byte) ≠ 0x02) := by
  decide +kernel

theorem witness_NodeRxDataDeliversInOrderAndAcknowledges :
    (node rc0).cfg.backoffMin ≤ (node rc0).cfg.backoffMax ∧ (0 : Seq) = peerGet (node rc0).expectedRxSeq 2 ∧
    (255 : Seq) ≠ peerGet (node rc0).expectedRxSeq 2 := by decide +kernel

theorem witness_FramesOnTheWireAreRouted :
    (0 : Seq) = peerGet (node rc0).expectedRxSeq 2 ∧ ((7 : Addr) ≠ (node rc0).cfg.nodeAddr ∧ (7 : Addr) ≠ 0xFF) ∧
    ((1 : Addr) = (node rc0).cfg.nodeAddr ∨ (1 : Addr) = 0xFF) ∧ ((0xFF : Addr) = 1 ∨ (0xFF : Addr) = 0xFF) ∧
    (node rc0).cfg.backoffMin ≤ (node rc0).cfg.backoffMax ∧ ([0x55] : Bytes) ≠ [] ∧
    ((0 : Byte) ≠ 0x01 ∧ (3 : Byte) ≠ 0x02) := by decide +kernel

theorem witness_DuplicatesAreDeliveredOnceAndAcknowledgedTwice :
    (Frame.mk 2 1 0 1 [0x4F]).ty = 0x01 ∧ (Frame.mk 2 1 0 1 [0x4F]).dst = (node rc0).cfg.nodeAddr ∧
    (Frame.mk 2 1 0 1 [0x4F]).seq = peerGet (node rc0).expectedRxSeq (Frame.mk 2 1 0 1 [0x4F]).src := by decide +kernel

/-- RC0 meets every clause. -/
theorem clauses_rc0 : ∀ n, CfgClause rc0 n := by
  intro n
  have h8 : CfgClause rc0 8 := by
    intro s0 s1 h
    obtain ⟨rfl, rfl⟩ : (0x2D : Byte) = s0 ∧ (0xD4 : Byte) = s1 := by simpa [rc0] using h
    exact firstSync_of_find (by decide +kernel)
  match n with
  | 8 => exact h8
  | 0 => trivial
  | 1 | 2 | 3 | 4 | 5 | 6 | 7 | 9 | 10 => simp [CfgClause, rc0]
  | _ + 11 => trivial

/-- A valid record, a record that fails clause 3 first, and a node that runs. -/
theorem witness_ConfigLatchesExactlyTheValidRecords :
    (State.reset.mode = .unconfigured ∧ ∀ n, CfgClause rc0 n) ∧
    (¬ CfgClause { rc0 with windowSize := 128 } 3 ∧ ∀ m, m < 3 → CfgClause { rc0 with windowSize := 128 } m) ∧
    (node rc0).mode ≠ .unconfigured := by
  refine ⟨⟨rfl, clauses_rc0⟩, ⟨by simp [CfgClause], fun m hm => ?_⟩, by decide⟩
  interval_cases m <;> simp [CfgClause, rc0]

theorem witness_SubmitQueuesOrRefusesWhole :
    (node rc0).mode = .run ∧ 255 < (List.replicate 256 0 : Bytes).length ∧
    ((List.replicate 255 0 : Bytes).length ≤ 255 ∧ (node { rc0 with txqCap := 1 }).txq.length < 1 ∧
      (node { rc0 with txqCap := 1 }).cfg.txqCap ≤ [Message.mk 2 []].length) ∧ State.reset.mode ≠ .run := by
  decide +kernel

theorem witness_RxBytesAppends : (node rc0).mode = .run ∧ State.reset.mode ≠ .run := by decide

/-- A tick at the very time of the clock, and one a unit before it. -/
theorem witness_TickRunsTheFourPhases :
    ((awaiting 0 100 50).mode = .run ∧ (awaiting 0 100 50).clock ≤ 50) ∧
    ((awaiting 0 100 50).mode = .run ∧ 49 < (awaiting 0 100 50).clock) ∧ State.reset.mode ≠ .run ∧
    ∃ s1 s2 s3 s4, exec .nodeAcks { node rc0 with clock := 50 } = .next s1 ∧ exec .nodeTimers s1 = .next s2 ∧
      exec .nodeAdmit s2 = .next s3 ∧ exec .nodeRx s3 = .next s4 :=
  ⟨by decide +kernel, by decide +kernel, by decide, _, _, _, _, rfl, rfl, rfl, rfl⟩

theorem witness_ShutdownBringsEverythingToRest :
    (node rc0).mode = .run ∧ ({ node rc0 with mode := .stopped } : State).mode = .stopped ∧
    State.reset.mode = .unconfigured := by decide

theorem witness_StatsReadReturnsTheCounters :
    ((node rc0).mode = .run ∨ (node rc0).mode = .stopped) ∧ State.reset.mode = .unconfigured := by decide

/-- Each of the three transitions, and a CFG that is written. -/
theorem witness_ModeAndConfigurationMoveOnlyByTheirOperations :
    ((after .reset (node rc0)).map State.mode = some .unconfigured ∧ (node rc0).mode ≠ .unconfigured) ∧
    ((after (.config rc0) State.reset).map State.mode = some .run ∧ State.reset.mode ≠ .run) ∧
    (after .shutdown (node rc0)).map State.mode = some .stopped ∧
    (after (.config rc0) State.reset).map State.cfg ≠ some State.reset.cfg := by decide +kernel

/-- One writer of each field that moves it. -/
theorem witness_StateFieldsHaveFixedWriters :
    (after .crc16Table { State.reset with crc16Table := Vector.replicate 256 0 }).map
      (fun t => peerGet t.crc16Table 1) ≠ some 0 ∧
    (after (.tick 7 []) (node rc0)).map State.clock ≠ some (node rc0).clock ∧
    (after (.seqAlloc 2) (node rc0)).map (fun t => peerGet t.nextTxSeq 2) ≠ some (peerGet (node rc0).nextTxSeq 2) ∧
    (after (.seqAccept 2 0) (node rc0)).map (fun t => peerGet t.expectedRxSeq 2) ≠
      some (peerGet (node rc0).expectedRxSeq 2) ∧
    (after (.swAck 2 0) (awaiting 0 100 0)).map (fun t => (peerGet t.sw 2).state) ≠
      some (peerGet (awaiting 0 100 0).sw 2).state ∧
    (after (.winClear 2) (windowed [entry 5] 0 0 0)).map (fun t => (peerGet t.gbn 2).window) ≠
      some (peerGet (windowed [entry 5] 0 0 0).gbn 2).window ∧
    (after (.submit 2 []) (node rc0)).map State.txq ≠ some (node rc0).txq ∧
    (after (.ack 2 1 0) (node rc0)).map State.ackq ≠ some (node rc0).ackq ∧
    (after (.rxBytes [1]) (node rc0)).map State.rxIn ≠ some (node rc0).rxIn ∧
    (after .nodeRx { node rc0 with rxIn := [1] }).map State.rxBuf ≠ some (node rc0).rxBuf ∧
    (after (.macSend [1] 3 go) (nodeSure rc0)).map (fun t => (t.txFreeAt, t.txOut)) ≠ some (0, []) ∧
    (after (.data 2 1 0 []) (node rc0)).map State.deliverOut ≠ some (node rc0).deliverOut ∧
    (after (.swAck 2 0) (awaiting 0 100 0)).map State.feedbackOut ≠ some (awaiting 0 100 0).feedbackOut := by
  decide +kernel

theorem witness_CountersAndOutputsOnlyGrow :
    Instr.ack 2 1 0 ≠ .reset ∧ (after (.ack 2 1 0) (node rc0)).map (fun t => t.cnt.rxAck) = some 1 := by decide +kernel

/-- A host request, an internal one, and words that are no instruction. -/
theorem witness_StepRunsTheDecodedInstruction :
    decode .op [0x00] = .ok .reset ∧ Instr.reset.kind = .host ∧ decode .op [0x63] = .ok .nodeRx ∧
    Instr.nodeRx.kind = .core ∧ (State.reset.withFetchWord 8 0x63).port.map Request.issuer = [.core] ∧
    (State.reset.withFetchWord 8 0x00).port.map Request.issuer = [.host] ∧ State.reset.port = [] ∧
    decode .op [0x07] = .error (.reservedOpsel 0x07) := by decide +kernel

theorem witness_DecodeInvertsEncodeOnOperations :
    (Instr.config rc0).format = .op ∧ (Instr.tick 300 [go]).format = .op := by decide

theorem witness_DecodeInvertsEncodeOnWirePatterns :
    ((Instr.data 2 1 0 (List.replicate 255 0)).format ≠ .op ∧ (Instr.data 2 1 0 (List.replicate 255 0)).wellFormed = true) ∧
    ((Instr.ack 2 1 0).format ≠ .op ∧ (Instr.ack 2 1 0).wellFormed = true) ∧
    ((Instr.ackWithPayload 2 1 0 [0]).format ≠ .op ∧ (Instr.ackWithPayload 2 1 0 [0]).wellFormed = true) ∧
    ((Instr.unknownType 2 1 0 3 []).format ≠ .op ∧ (Instr.unknownType 2 1 0 3 []).wellFormed = true) ∧
    ((Instr.bframe 3 63 [] 0).format ≠ .op ∧ (Instr.bframe 3 63 [] 0).wellFormed = true) := by decide +kernel

/-- A node in Go-Back-N with two frames outstanding to destination 2 and a tick requested. -/
def busyNode : State :=
  { (node rcGbn).setGbn 2 ⟨[entry 5, entry 6], 1, 100⟩ with
    nextTxSeq := peerSet (node rcGbn).nextTxSeq 2 7
    txOut := [⟨[5], 0⟩, ⟨[6], 7⟩]
    txFreeAt := 7
    port := [⟨.host, .op, [0x04, 100, 0]⟩] }

theorem witness_EveryStepKeepsTheNodeSafe : SafeState busyNode ∧ ∃ t, step busyNode = .next t := by
  have hsw : ∀ d, (peerGet busyNode.sw d).state = .idle := fun d => by
    show (peerGet (Vector.replicate 256 SwEntry.reset) d).state = _
    simp [SwEntry.reset]
  have hgbn : ∀ d, peerGet busyNode.gbn d = if d = 2 then ⟨[entry 5, entry 6], 1, 100⟩ else GbnEntry.reset := fun d => by
    show peerGet (peerSet (Vector.replicate 256 GbnEntry.reset) 2 _) d = _
    rw [peerGet_peerSet]
    simp
  have hseq : peerGet busyNode.nextTxSeq 2 = 7 := peerGet_peerSet_self _ _ _
  have hcfg : busyNode.cfg = toCfg rcGbn := rfl
  refine ⟨⟨rfl, fun h => absurd rfl h, fun _ => ?_, fun _ => by decide +kernel, fun m hm => ?_, fun d => ?_, fun d => ?_, ?_,
    ?_, fun r hr => ?_⟩, ⟨_, rfl⟩⟩
  · rw [hcfg]
    exact ⟨by decide +kernel, by decide +kernel, by decide +kernel, by decide +kernel, by decide +kernel, by decide +kernel,
      by decide +kernel⟩
  · cases hm
  · exact ⟨fun h => absurd ((hsw d).symm.trans h) (by decide), fun h => absurd ((hsw d).symm.trans h) (by decide)⟩
  · rw [hgbn d]
    split
    · next h =>
      subst h
      rw [hseq]
      refine ⟨fun _ => rfl, fun _ => by decide +kernel, by decide +kernel, ?_, ?_, ?_⟩
      · intro base hb k hk
        obtain rfl : entry 5 = base := by simpa using hb
        have hk' : k < 2 := hk
        interval_cases k <;> rfl
      · intro e he
        obtain rfl : entry 6 = e := by simpa using he
        rfl
      · intro e he
        rcases List.mem_cons.mp he with rfl | he
        · exact ⟨rfl, rfl⟩
        · obtain rfl : e = entry 6 := by simpa using he
          exact ⟨rfl, rfl⟩
    · exact ⟨fun h => absurd rfl h, fun h => absurd rfl h, Nat.zero_le _, fun b hb => (by cases hb), fun b hb => (by cases hb),
        fun b hb => (by cases hb)⟩
  · exact ⟨by decide +kernel, by decide +kernel⟩
  · exact .inl ⟨by decide +kernel, Nat.zero_le _⟩
  · obtain rfl : r = ⟨.host, .op, [0x04, 100, 0]⟩ := by simpa [busyNode] using hr
    rfl

end Sys2Proof.Tests
end

section
/-!
What one instruction can do, said once for all 43: which fields it may write, and that it only adds to the output
channels and the counters (`exec_effect`). The statements about the writers of the state (O52, O53) and about its growth
(O54) are read off it.
-/

set_option Elab.async false

namespace Sys2Proof.Machine

/-! ### Fields and effects -/

/-- The fields of the state whose writers the spec fixes. -/
inductive StateField
  | mode
  | cfg
  | crc16Table
  | rxBuf
  | nextTxSeq
  | expectedRxSeq
  | sw
  | gbn
  | txFreeAt
  | clock
  | txq
  | ackq
  | rxIn
  | txOut
  | deliverOut
  | feedbackOut

/-- The field is in t as it was in s. -/
@[simp] def StateField.Same (s t : State) : StateField → Prop
  | .mode => t.mode = s.mode
  | .cfg => t.cfg = s.cfg
  | .crc16Table => t.crc16Table = s.crc16Table
  | .rxBuf => t.rxBuf = s.rxBuf
  | .nextTxSeq => t.nextTxSeq = s.nextTxSeq
  | .expectedRxSeq => t.expectedRxSeq = s.expectedRxSeq
  | .sw => t.sw = s.sw
  | .gbn => t.gbn = s.gbn
  | .txFreeAt => t.txFreeAt = s.txFreeAt
  | .clock => t.clock = s.clock
  | .txq => t.txq = s.txq
  | .ackq => t.ackq = s.ackq
  | .rxIn => t.rxIn = s.rxIn
  | .txOut => t.txOut = s.txOut
  | .deliverOut => t.deliverOut = s.deliverOut
  | .feedbackOut => t.feedbackOut = s.feedbackOut

theorem StateField.Same.trans {a b c : State} {f : StateField} (h : f.Same a b) (h' : f.Same b c) : f.Same a c := by
  cases f <;> exact Eq.trans h' h

/-- Events are appended, and neither a counter nor the transmitter's time goes down (R34, R49 to R51). -/
structure OutputsGrow (s t : State) : Prop where
  txOut : s.txOut <+: t.txOut
  deliverOut : s.deliverOut <+: t.deliverOut
  feedbackOut : s.feedbackOut <+: t.feedbackOut
  txFreeAt : s.txFreeAt ≤ t.txFreeAt
  cnt : s.cnt.Le t.cnt

theorem Grows.outputsGrow {s t : State} (h : Grows s t) : OutputsGrow s t :=
  ⟨h.txOut, h.deliverOut, h.feedbackOut, h.txFreeAt, h.cnt⟩

/-- What an operation that may write the fields w can do to a state. -/
structure Effect (w : List StateField) (s t : State) : Prop where
  kept : ∀ f, f ∉ w → f.Same s t
  grown : OutputsGrow s t

theorem Effect.trans {w : List StateField} {a b c : State} (h : Effect w a b) (h' : Effect w b c) : Effect w a c where
  kept := fun f hf => (h.kept f hf).trans (h'.kept f hf)
  grown :=
    ⟨h.grown.txOut.trans h'.grown.txOut, h.grown.deliverOut.trans h'.grown.deliverOut,
      h.grown.feedbackOut.trans h'.grown.feedbackOut, h.grown.txFreeAt.trans h'.grown.txFreeAt,
      h.grown.cnt.trans h'.grown.cnt⟩

theorem Effect.mono {w w' : List StateField} {s t : State} (h : Effect w s t) (hw : w ⊆ w') : Effect w' s t :=
  ⟨fun f hf => h.kept f fun hm => hf (hw hm), h.grown⟩

/-- The effect of an operation that adds no event and counts nothing. -/
theorem effect_of_silent {w : List StateField} {s t : State} (hk : ∀ f, f ∉ w → f.Same s t) (ht : t.txOut = s.txOut)
    (hd : t.deliverOut = s.deliverOut) (hf : t.feedbackOut = s.feedbackOut) (hx : t.txFreeAt = s.txFreeAt)
    (hc : t.cnt = s.cnt) : Effect w s t :=
  ⟨hk, ht ▸ List.prefix_rfl, hd ▸ List.prefix_rfl, hf ▸ List.prefix_rfl, hx ▸ le_refl _, hc ▸ .refl _⟩

theorem Effect.refl (w : List StateField) (s : State) : Effect w s s :=
  effect_of_silent (fun f _ => by cases f <;> rfl) rfl rfl rfl rfl rfl

/-- The response register is none of the fields. -/
theorem answer_effect (w : List StateField) (s : State) (r : Response) : Effect w s (s.answer r) :=
  effect_of_silent (fun f _ => by cases f <;> rfl) rfl rfl rfl rfl rfl

theorem supplyDraws_effect (w : List StateField) (s : State) (ds : List Draw) : Effect w s (s.supplyDraws ds) :=
  effect_of_silent (fun f _ => by cases f <;> rfl) rfl rfl rfl rfl rfl

theorem Effect.answer {w : List StateField} {s t : State} (h : Effect w s t) (r : Response) : Effect w s (t.answer r) :=
  h.trans (answer_effect w t r)

theorem Effect.after_answer {w : List StateField} {s t : State} {r : Response} (h : Effect w (s.answer r) t) :
    Effect w s t := (answer_effect w s r).trans h

theorem raise_payloadTooLong_effect (w : List StateField) (s : State) : Effect w s (raise .payloadTooLong s) :=
  effect_of_silent (fun f _ => by cases f <;> rfl) rfl rfl rfl rfl rfl

theorem raise_cfgClause_effect (w : List StateField) (n : Nat) (s : State) : Effect w s (raise (.cfgClause n) s) :=
  effect_of_silent (fun f _ => by cases f <;> rfl) rfl rfl rfl rfl rfl

theorem buildTable_effect (s : State) : Effect [.crc16Table] s s.buildTable :=
  effect_of_silent (by intro f; cases f <;> simp) rfl rfl rfl rfl rfl

theorem setNextTxSeq_effect (s : State) (d : Addr) (n : Seq) : Effect [.nextTxSeq] s (s.setNextTxSeq d n) :=
  effect_of_silent (by intro f; cases f <;> simp) rfl rfl rfl rfl rfl

theorem setExpectedRxSeq_effect (s : State) (d : Addr) (n : Seq) :
    Effect [.expectedRxSeq] s (s.setExpectedRxSeq d n) :=
  effect_of_silent (by intro f; cases f <;> simp) rfl rfl rfl rfl rfl

theorem setGbn_effect (s : State) (d : Addr) (g : GbnEntry) : Effect [.gbn] s (s.setGbn d g) :=
  effect_of_silent (by intro f; cases f <;> simp) rfl rfl rfl rfl rfl

/-! ### The engines -/

theorem seqAccept_effect (d : Addr) (n : Seq) (s : State) : Effect [.expectedRxSeq] s (seqAccept d n s).2.2 := by
  by_cases h : n = peerGet s.expectedRxSeq d
  · rw [seqAccept_inOrder h]
    exact setExpectedRxSeq_effect s d (n + 1)
  · rw [seqAccept_notInOrder h]
    exact .refl _ s

theorem decodeFrame_effect (w : List StateField) (buf : Bytes) (s : State) : Effect w s (decodeFrame buf s).2 := by
  rcases decodeFrame_state buf s with h | ⟨n, -, h⟩ <;> rw [h]
  · exact .refl w s
  · exact ⟨fun f _ => by cases f <;> rfl, (crcMismatch_grows n s).outputsGrow⟩

theorem macSend_effect (frame : Bytes) (t : Nat) (s : State) : Effect [.txFreeAt, .txOut] s (macSend frame t s).2 := by
  obtain ⟨e, ds, n, hm, h1⟩ := macSend_spec frame t s
  rw [hm]
  exact ⟨by intro f; cases f <;> simp,
    List.prefix_append _ _, List.prefix_rfl, List.prefix_rfl, h1.inTurn, .refl _⟩

theorem swStart_effect (d : Addr) (p : Bytes) (s : State) :
    Effect [.nextTxSeq, .sw, .txFreeAt, .txOut] s (swStart d p s) := by
  by_cases hp : p.length ≤ 255
  · refine ⟨?_, (swStart_grows d p s).outputsGrow⟩
    obtain ⟨e, ds, n, -, h⟩ := swStart_spec d p s hp
    rw [h]
    intro f; cases f <;> simp
  · rw [swStart_long d p s (by omega)]
    exact raise_payloadTooLong_effect _ s

theorem swAck_effect (d : Addr) (n : Seq) (s : State) : Effect [.sw, .feedbackOut] s (swAck d n s) := by
  refine ⟨?_, (swAck_grows d n s).outputsGrow⟩
  rcases swAck_spec d n s with ⟨-, -, h⟩ | ⟨-, h⟩ <;> rw [h] <;> intro f <;> cases f <;> simp

theorem swTimeout_effect (d : Addr) (s : State) :
    Effect [.sw, .txFreeAt, .txOut, .feedbackOut] s (swTimeout d s) := by
  refine ⟨?_, (swTimeout_grows d s).outputsGrow⟩
  rcases swTimeout_spec d s with ⟨-, h⟩ | ⟨-, -, -, e, ds, n, -, h⟩ | ⟨-, -, -, h⟩ <;> rw [h] <;> intro f <;>
    cases f <;> simp

theorem gbnAdmit_effect (d : Addr) (p : Bytes) (s : State) :
    Effect [.nextTxSeq, .gbn, .txFreeAt, .txOut] s (gbnAdmit d p s) := by
  by_cases hp : p.length ≤ 255
  · refine ⟨?_, (gbnAdmit_grows d p s).outputsGrow⟩
    obtain ⟨e, ds, n, -, h⟩ := gbnAdmit_spec d p s hp
    rw [h]
    intro f; cases f <;> simp
  · rw [gbnAdmit_long d p s (by omega)]
    exact raise_payloadTooLong_effect _ s

theorem gbnAck_effect (d : Addr) (n : Seq) (s : State) : Effect [.gbn, .feedbackOut] s (gbnAck d n s) := by
  refine ⟨?_, (gbnAck_grows d n s).outputsGrow⟩
  rcases gbnAck_spec d n s with ⟨-, h⟩ | ⟨k, -, -, -, h⟩ <;> rw [h] <;> intro f <;> cases f <;> simp

theorem gbnTimeout_effect (d : Addr) (s : State) :
    Effect [.gbn, .txFreeAt, .txOut, .feedbackOut] s (gbnTimeout d s) := by
  refine ⟨?_, (gbnTimeout_grows d s).outputsGrow⟩
  rcases gbnTimeout_spec d s with ⟨-, h⟩ | ⟨-, -, -, evs, e, ds, n, -, -, -, -, -, -, -, h⟩ | ⟨-, -, -, h⟩ <;> rw [h] <;>
    intro f <;> cases f <;> simp

/-! ### Receiving -/

/-- What a DATA frame for the node writes (R264). -/
@[simp] def dataWrites : List StateField := [.expectedRxSeq, .txFreeAt, .txOut, .deliverOut]

/-- What a frame writes, by its type and payload (R263). -/
def frameWrites (f : Frame) : List StateField :=
  if f.ty = typeData then dataWrites else if f.ty = typeAck ∧ f.payload = [] then [.ackq] else []

theorem mem_frameWrites {x : StateField} {f : Frame} :
    x ∈ frameWrites f ↔
      (f.ty = typeData ∧ x ∈ dataWrites) ∨ (f.ty = typeAck ∧ f.payload = [] ∧ x = .ackq) := by
  unfold frameWrites
  split
  · next h => simp [h, typeData, typeAck]
  · next h => split <;> simp_all

theorem nodeRxData_effect (f : Frame) (s : State) : Effect dataWrites s (nodeRxData f s) := by
  refine ⟨?_, (nodeRxData_grows f s).outputsGrow⟩
  obtain ⟨e, ds, n, -, h⟩ := nodeRxData_spec f s
  rw [h]
  unfold afterVerdict
  split <;> intro f <;> cases f <;> simp

theorem nodeRxFrame_effect (f : Frame) (s : State) : Effect (frameWrites f) s (nodeRxFrame f s) := by
  refine ⟨fun x hx => ?_, (nodeRxFrame_grows f s).outputsGrow⟩
  rw [mem_frameWrites, not_or] at hx
  obtain ⟨hdata, hack⟩ := hx
  rcases nodeRxFrame_cases f s with ⟨-, h⟩ | ⟨-, ⟨ht, h⟩ | ⟨-, -, h⟩ | ⟨ht, hp, h⟩ | ⟨-, -, h⟩⟩
  · rw [h]; cases x <;> rfl
  · rw [h]
    exact (nodeRxData_effect f s).kept x fun hm => hdata ⟨ht, hm⟩
  · rw [h]; cases x <;> rfl
  · rw [h]; cases x <;> simp_all
  · rw [h]; cases x <;> rfl

/-! ### The phases of a tick -/

/-- What the ACK phase writes (R255). -/
@[simp] def acksWrites : List StateField := [.ackq, .sw, .gbn, .feedbackOut]

/-- What the timer phase writes (R256). -/
@[simp] def timersWrites : List StateField := [.sw, .gbn, .txFreeAt, .txOut, .feedbackOut]

/-- What the admission phase writes (R258). -/
@[simp] def admitWrites : List StateField := [.txq, .nextTxSeq, .sw, .gbn, .txFreeAt, .txOut]

/-- What the receive phase writes (R259). -/
@[simp] def rxWrites : List StateField := [.rxBuf, .rxIn, .ackq, .expectedRxSeq, .txFreeAt, .txOut, .deliverOut]

/-- What the four phases write together, and the clock (R254). -/
@[simp] def tickWrites : List StateField :=
  [.clock, .rxBuf, .nextTxSeq, .expectedRxSeq, .sw, .gbn, .txFreeAt, .txq, .ackq, .rxIn, .txOut, .deliverOut,
    .feedbackOut]

theorem TimersMoved.kept {s t : State} (h : TimersMoved s t) : ∀ f, f ∉ timersWrites → f.Same s t := by
  unfold TimersMoved at h
  rw [h]
  intro f; cases f <;> simp

theorem AdmitMoved.kept {s t : State} (h : AdmitMoved s t) : ∀ f, f ∉ admitWrites → f.Same s t := by
  unfold AdmitMoved at h
  rw [h]
  intro f; cases f <;> simp

theorem RxMoved.kept {s t : State} (h : RxMoved s t) : ∀ f, f ∉ rxWrites → f.Same s t := by
  unfold RxMoved at h
  rw [h]
  intro f; cases f <;> simp

theorem nodeAcks_effect (s : State) : Effect acksWrites s (nodeAcks s) := by
  refine ⟨?_, (nodeAcks_grows s).outputsGrow⟩
  rw [nodeAcks_frame s]
  intro f; cases f <;> simp

theorem nodeTimers_effect (s : State) : Effect timersWrites s (nodeTimers s) :=
  ⟨(nodeTimers_frame s).kept, (nodeTimers_grows s).outputsGrow⟩

theorem nodeAdmit_effect (s : State) : Effect admitWrites s (nodeAdmit s) :=
  ⟨(nodeAdmit_frame s).1.kept, (nodeAdmit_grows s).outputsGrow⟩

theorem nodeRx_effect (s : State) : Effect rxWrites s (nodeRx s) := by
  obtain ⟨hg, hm, -⟩ := nodeRx_spec s
  have hin : ∀ f, f ∉ rxWrites → f.Same s { s with rxIn := [] } := by intro f; cases f <;> simp
  exact ⟨fun f hf => (hin f hf).trans (hm.kept f hf), hg.outputsGrow⟩

theorem tickPhases_effect (s : State) : Effect tickWrites s (tickPhases s) :=
  ((((nodeAcks_effect s).mono (by simp)).trans ((nodeTimers_effect _).mono (by simp))).trans
    ((nodeAdmit_effect _).mono (by simp))).trans ((nodeRx_effect _).mono (by simp))

/-! ### When an operation answers a next state -/

/-- An operation behind a test that answers a next state has passed the test. -/
theorem next_of_guard {p : Prop} [Decidable p] {op : Answer} {r : Refusal} {t : State}
    (h : (if p then op else .refused r) = .next t) : p ∧ op = .next t := by
  split at h
  · next hp => exact ⟨hp, h⟩
  · cases h

theorem acceptedIn_next {modes : List Mode} {s t : State} {op : Answer} (h : acceptedIn modes s op = .next t) :
    s.mode ∈ modes ∧ op = .next t := next_of_guard h

theorem profileBAccepted_next {s t : State} {op : Answer} (h : profileBAccepted s op = .next t) : op = .next t :=
  (next_of_guard (acceptedIn_next h).2).2

/-- `CONFIG` names the clause that fails, or latches the record and starts the node (R251). -/
theorem execConfig_next {r : CfgRequest} {s t : State} (h : execConfig r s = .next t) :
    s.mode = .unconfigured ∧
      ((∃ n, t = raise (.cfgClause n) s) ∨
        (cfgFirstFail r = none ∧ t = { s with cfg := toCfg r, mode := .run }.answer .ok)) := by
  obtain ⟨hm, h⟩ := acceptedIn_next h
  refine ⟨by simpa using hm, ?_⟩
  split at h
  · next n _ => exact .inl ⟨n, (Host.Outcome.next.inj h).symm⟩
  · next hn => exact .inr ⟨hn, (Host.Outcome.next.inj h).symm⟩

/-- `SUBMIT` refuses the payload, is busy, or queues the message (R253). -/
theorem execSubmit_next {d : Addr} {p : Bytes} {s t : State} (h : execSubmit d p s = .next t) :
    s.mode = .run ∧
      (t = raise .payloadTooLong s ∨ t = s.answer .busy ∨
        (p.length ≤ 255 ∧ s.txq.length < s.cfg.txqCap ∧ t = { s with txq := s.txq ++ [Message.mk d p] }.answer .ok)) := by
  obtain ⟨hm, h⟩ := acceptedIn_next h
  refine ⟨by simpa using hm, ?_⟩
  split at h
  · exact .inl (Host.Outcome.next.inj h).symm
  · next hp =>
    split at h
    · exact .inr (.inl (Host.Outcome.next.inj h).symm)
    · next hq => exact .inr (.inr ⟨by omega, by omega, (Host.Outcome.next.inj h).symm⟩)

theorem execRxBytes_next {b : Bytes} {s t : State} (h : execRxBytes b s = .next t) :
    s.mode = .run ∧ t = { s with rxIn := memAppend s.rxIn b }.answer .nothing := by
  obtain ⟨hm, h⟩ := acceptedIn_next h
  exact ⟨by simpa using hm, (Host.Outcome.next.inj h).symm⟩

theorem execTick_next {now : Nat} {free : List Draw} {s t : State} (h : execTick now free s = .next t) :
    s.mode = .run ∧ t = (tickPhases { s.supplyDraws free with clock := now }).answer .nothing := by
  obtain ⟨hm, h⟩ := acceptedIn_next h
  refine ⟨by simpa using hm, ?_⟩
  split at h
  · cases h
  · exact (Host.Outcome.next.inj h).symm

/-- `SHUTDOWN` stops a running node and leaves a stopped one as it is (R262). -/
theorem execShutdown_next {s t : State} (h : execShutdown s = .next t) :
    (s.mode = .run ∧ t = s.toStopped.answer .nothing) ∨ (s.mode = .stopped ∧ t = s.answer .nothing) := by
  obtain ⟨hm, h⟩ := acceptedIn_next h
  obtain rfl := Host.Outcome.next.inj h
  have hm' : s.mode = .run ∨ s.mode = .stopped := by simpa using hm
  rcases hm' with hr | hs
  · exact .inl ⟨hr, by rw [if_pos hr]⟩
  · exact .inr ⟨hs, by rw [if_neg (by simp [hs])]⟩

/-! ### The effect of each instruction -/

/-- The fields each instruction may write; `RESET`, which writes them all, stands outside the table. -/
def writesOf : Instr → List StateField
  | .reset => []
  | .config _ => [.mode, .cfg]
  | .submit _ _ => [.txq]
  | .rxBytes _ => [.rxIn]
  | .tick _ _ => tickWrites
  | .shutdown => [.mode, .sw, .gbn, .txq, .ackq, .rxIn, .rxBuf]
  | .crc16Table => [.crc16Table]
  | .seqAlloc _ => [.nextTxSeq]
  | .seqAccept _ _ => [.expectedRxSeq]
  | .winPush _ _ _ _ | .winSlide _ _ | .winClear _ => [.gbn]
  | .swStart _ _ => [.nextTxSeq, .sw, .txFreeAt, .txOut]
  | .swAck _ _ => [.sw, .feedbackOut]
  | .swTimeout _ => [.sw, .txFreeAt, .txOut, .feedbackOut]
  | .gbnAdmit _ _ => [.nextTxSeq, .gbn, .txFreeAt, .txOut]
  | .gbnAck _ _ => [.gbn, .feedbackOut]
  | .gbnTimeout _ => [.gbn, .txFreeAt, .txOut, .feedbackOut]
  | .macSend _ _ _ => [.txFreeAt, .txOut]
  | .nodeAcks => acksWrites
  | .nodeTimers => timersWrites
  | .nodeAdmit => admitWrites
  | .nodeRx => rxWrites
  | .nodeRxFrame f => frameWrites f
  | .nodeRxData _ => dataWrites
  | .data src dst seq p => frameWrites ⟨src, dst, seq, typeData, p⟩
  | .ack src dst seq => frameWrites ⟨src, dst, seq, typeAck, []⟩
  | .ackWithPayload src dst seq p => frameWrites ⟨src, dst, seq, typeAck, p⟩
  | .unknownType src dst seq ty p => frameWrites ⟨src, dst, seq, ty, p⟩
  | .statsRead | .crc16 _ | .crc16Verify _ _ | .crc32Rem _ | .crc32Check _ | .crc32Gen _ => []
  | .frameEncode _ _ _ _ _ | .frameDecode _ | .bframeEncode _ _ _ | .bframeCheck _ | .bframe _ _ _ _ => []
  | .seqDist _ _ | .seqNewer _ _ | .winCover _ _ => []

theorem Effect.of_next {w : List StateField} {s x t : State} (hx : Effect w s x)
    (h : (Host.Outcome.next x : Answer) = .next t) : Effect w s t :=
  Host.Outcome.next.inj h ▸ hx

theorem execConfig_effect {r : CfgRequest} {s t : State} (h : execConfig r s = .next t) :
    Effect [.mode, .cfg] s t := by
  obtain ⟨-, ⟨n, rfl⟩ | ⟨-, rfl⟩⟩ := execConfig_next h
  · exact raise_cfgClause_effect _ n s
  · exact effect_of_silent (by intro f; cases f <;> simp) rfl rfl rfl rfl rfl

theorem execSubmit_effect {d : Addr} {p : Bytes} {s t : State} (h : execSubmit d p s = .next t) :
    Effect [.txq] s t := by
  obtain ⟨-, rfl | rfl | ⟨-, -, rfl⟩⟩ := execSubmit_next h
  · exact raise_payloadTooLong_effect _ s
  · exact answer_effect _ s _
  · exact effect_of_silent (by intro f; cases f <;> simp) rfl rfl rfl rfl rfl

theorem execRxBytes_effect {b : Bytes} {s t : State} (h : execRxBytes b s = .next t) : Effect [.rxIn] s t := by
  obtain ⟨-, rfl⟩ := execRxBytes_next h
  exact effect_of_silent (by intro f; cases f <;> simp) rfl rfl rfl rfl rfl

theorem execTick_effect {now : Nat} {free : List Draw} {s t : State} (h : execTick now free s = .next t) :
    Effect tickWrites s t := by
  obtain ⟨-, rfl⟩ := execTick_next h
  have hclock : Effect tickWrites s { s.supplyDraws free with clock := now } :=
    effect_of_silent (by intro f; cases f <;> simp) rfl rfl rfl rfl rfl
  exact (hclock.trans (tickPhases_effect _)).answer .nothing

theorem execShutdown_effect {s t : State} (h : execShutdown s = .next t) :
    Effect [.mode, .sw, .gbn, .txq, .ackq, .rxIn, .rxBuf] s t := by
  obtain ⟨-, rfl⟩ | ⟨-, rfl⟩ := execShutdown_next h
  · exact effect_of_silent (by intro f; cases f <;> simp [State.toStopped]) rfl rfl rfl rfl rfl
  · exact answer_effect _ s _

theorem execFrameEncode_effect {src dst seq ty : Byte} {p : Bytes} {s t : State}
    (h : execFrameEncode src dst seq ty p s = .next t) : Effect [] s t := by
  unfold execFrameEncode at h
  split at h
  · exact (raise_payloadTooLong_effect [] s).of_next h
  · exact (answer_effect [] s _).of_next (next_of_guard h).2

/-- Every instruction but `RESET` writes at most the fields the table gives it, appends to the channels and counts up. -/
theorem exec_effect {i : Instr} {s t : State} (hi : i ≠ .reset) (h : exec i s = .next t) : Effect (writesOf i) s t := by
  cases i with
  | reset => exact absurd rfl hi
  | config r => exact execConfig_effect h
  | submit d p => exact execSubmit_effect h
  | rxBytes b => exact execRxBytes_effect h
  | tick now free => exact execTick_effect h
  | shutdown => exact execShutdown_effect h
  | statsRead => exact (answer_effect _ s _).of_next (acceptedIn_next h).2
  | crc16Table => exact ((buildTable_effect s).answer .nothing).of_next h
  | crc16 b => exact (answer_effect _ s _).of_next h
  | crc16Verify b c => exact (answer_effect _ s _).of_next h
  | crc32Rem b => exact (answer_effect _ s _).of_next h
  | crc32Check b => exact (answer_effect _ s _).of_next h
  | crc32Gen b => exact (answer_effect _ s _).of_next h
  | frameEncode src dst seq ty p => exact execFrameEncode_effect h
  | frameDecode buf => exact ((decodeFrame_effect _ buf s).answer _).of_next h
  | bframeEncode a q c => exact (answer_effect _ s _).of_next (next_of_guard (profileBAccepted_next h)).2
  | bframeCheck b => exact (answer_effect _ s _).of_next (profileBAccepted_next h)
  | seqAlloc d => exact ((setNextTxSeq_effect s d _).answer _).of_next h
  | seqDist a b => exact (answer_effect _ s _).of_next h
  | seqNewer a b => exact (answer_effect _ s _).of_next h
  | seqAccept d n => exact ((seqAccept_effect d n s).answer _).of_next h
  | winPush d n f l => exact ((setGbn_effect s d _).answer .nothing).of_next (next_of_guard h).2
  | winCover d n => exact (answer_effect _ s _).of_next h
  | winSlide d k => exact ((setGbn_effect s d _).answer _).of_next (next_of_guard h).2
  | winClear d => exact ((setGbn_effect s d _).answer _).of_next h
  | swStart d p => exact (swStart_effect d p _).after_answer.of_next (next_of_guard h).2
  | swAck d n => exact (swAck_effect d n _).after_answer.of_next h
  | swTimeout d => exact (swTimeout_effect d _).after_answer.of_next h
  | gbnAdmit d p => exact (gbnAdmit_effect d p _).after_answer.of_next (next_of_guard h).2
  | gbnAck d n => exact (gbnAck_effect d n _).after_answer.of_next h
  | gbnTimeout d => exact (gbnTimeout_effect d _).after_answer.of_next h
  | macSend f now d =>
    exact (((supplyDraws_effect _ s [d]).trans (macSend_effect f now _)).answer _).of_next h
  | nodeAcks => exact (nodeAcks_effect _).after_answer.of_next h
  | nodeTimers => exact (nodeTimers_effect _).after_answer.of_next h
  | nodeAdmit => exact ((nodeAdmit_effect s).answer .nothing).of_next h
  | nodeRx => exact (nodeRx_effect _).after_answer.of_next h
  | nodeRxFrame f => exact (nodeRxFrame_effect f _).after_answer.of_next h
  | nodeRxData f => exact (nodeRxData_effect f _).after_answer.of_next h
  | data a b n p => exact (nodeRxFrame_effect _ _).after_answer.of_next h
  | ack a b n => exact (nodeRxFrame_effect _ _).after_answer.of_next h
  | ackWithPayload a b n p => exact (nodeRxFrame_effect _ _).after_answer.of_next h
  | unknownType a b n ty p => exact (nodeRxFrame_effect _ _).after_answer.of_next h
  | bframe a q c k => exact (answer_effect _ s _).of_next (profileBAccepted_next h)

/-! ### Reading the table of writers

For each field, the instructions in whose row of `writesOf` it stands. -/

section
variable {i : Instr}

theorem mode_mem_writesOf (h : .mode ∈ writesOf i) : (∃ r, i = .config r) ∨ i = .shutdown := by
  cases i <;> simp_all [writesOf, mem_frameWrites]

theorem cfg_mem_writesOf (h : .cfg ∈ writesOf i) : ∃ r, i = .config r := by
  cases i <;> simp_all [writesOf, mem_frameWrites]

theorem crc16Table_mem_writesOf (h : .crc16Table ∈ writesOf i) : i = .crc16Table := by
  cases i <;> simp_all [writesOf, mem_frameWrites]

theorem clock_mem_writesOf (h : .clock ∈ writesOf i) : IsTick i := by
  cases i <;> simp_all [writesOf, mem_frameWrites, IsTick]

theorem nextTxSeq_mem_writesOf (h : .nextTxSeq ∈ writesOf i) :
    IsTick i ∨ i = .nodeAdmit ∨ (∃ d, i = .seqAlloc d) ∨ (∃ d p, i = .swStart d p) ∨ ∃ d p, i = .gbnAdmit d p := by
  cases i <;> simp_all [writesOf, mem_frameWrites, IsTick]

theorem expectedRxSeq_mem_writesOf (h : .expectedRxSeq ∈ writesOf i) :
    IsTick i ∨ ReceivesData i ∨ ∃ d n, i = .seqAccept d n := by
  cases i <;> simp_all [writesOf, mem_frameWrites, IsTick, ReceivesData, typeData, typeAck]

theorem sw_mem_writesOf (h : .sw ∈ writesOf i) :
    IsTick i ∨ i = .shutdown ∨ i = .nodeAcks ∨ i = .nodeTimers ∨ i = .nodeAdmit ∨ (∃ d p, i = .swStart d p) ∨
      (∃ d n, i = .swAck d n) ∨ ∃ d, i = .swTimeout d := by
  cases i <;> simp_all [writesOf, mem_frameWrites, IsTick]

theorem gbn_mem_writesOf (h : .gbn ∈ writesOf i) :
    IsTick i ∨ i = .shutdown ∨ i = .nodeAcks ∨ i = .nodeTimers ∨ i = .nodeAdmit ∨ (∃ d p, i = .gbnAdmit d p) ∨
      (∃ d n, i = .gbnAck d n) ∨ (∃ d, i = .gbnTimeout d) ∨ (∃ d n f l, i = .winPush d n f l) ∨
      (∃ d k, i = .winSlide d k) ∨ ∃ d, i = .winClear d := by
  cases i <;> simp_all [writesOf, mem_frameWrites, IsTick]

theorem txq_mem_writesOf (h : .txq ∈ writesOf i) :
    IsTick i ∨ i = .shutdown ∨ i = .nodeAdmit ∨ ∃ d p, i = .submit d p := by
  cases i <;> simp_all [writesOf, mem_frameWrites, IsTick]

theorem ackq_mem_writesOf (h : .ackq ∈ writesOf i) : IsTick i ∨ i = .shutdown ∨ i = .nodeAcks ∨ ReceivesAck i := by
  cases i <;> simp_all [writesOf, mem_frameWrites, IsTick, ReceivesAck, typeAck, typeData]

theorem rxIn_mem_writesOf (h : .rxIn ∈ writesOf i) :
    IsTick i ∨ i = .shutdown ∨ i = .nodeRx ∨ ∃ b, i = .rxBytes b := by
  cases i <;> simp_all [writesOf, mem_frameWrites, IsTick]

theorem rxBuf_mem_writesOf (h : .rxBuf ∈ writesOf i) : IsTick i ∨ i = .shutdown ∨ i = .nodeRx := by
  cases i <;> simp_all [writesOf, mem_frameWrites, IsTick]

theorem sends_of_mem_writesOf (h : .txFreeAt ∈ writesOf i ∨ .txOut ∈ writesOf i) : IsTick i ∨ SendsFrames i := by
  cases i <;> simp_all [writesOf, mem_frameWrites, IsTick, SendsFrames, ReceivesData, typeData, typeAck]

theorem deliverOut_mem_writesOf (h : .deliverOut ∈ writesOf i) : IsTick i ∨ ReceivesData i := by
  cases i <;> simp_all [writesOf, mem_frameWrites, IsTick, ReceivesData, typeData, typeAck]

theorem feedbackOut_mem_writesOf (h : .feedbackOut ∈ writesOf i) :
    IsTick i ∨ i = .nodeAcks ∨ i = .nodeTimers ∨ (∃ d n, i = .swAck d n) ∨ (∃ d, i = .swTimeout d) ∨
      (∃ d n, i = .gbnAck d n) ∨ ∃ d, i = .gbnTimeout d := by
  cases i <;> simp_all [writesOf, mem_frameWrites, IsTick]

end

/-- A field that has changed is one the instruction may write. -/
theorem Effect.mem_of_ne {w : List StateField} {s t : State} (h : Effect w s t) {f : StateField} (hf : ¬ f.Same s t) :
    f ∈ w := by
  by_contra hw
  exact hf (h.kept f hw)

end Sys2Proof.Machine

open Sys2Proof Sys2Proof.Machine

/-- Settles O51: the counters are the response, in the two modes that accept the operation. -/
theorem statsReadReturnsTheCounters : Obligations.StatsReadReturnsTheCounters := by
  refine ⟨⟨rfl, rfl⟩, fun s => ⟨fun hm => ?_, fun hm => ?_⟩⟩
  · exact acceptedIn_mem (by simpa using hm) _
  · exact acceptedIn_not_mem (by simp [hm]) _

/-- Settles O52: by the table of writers, and by the inversions of `CONFIG` and `SHUTDOWN`. -/
theorem modeAndConfigurationMoveOnlyByTheirOperations :
    Obligations.ModeAndConfigurationMoveOnlyByTheirOperations := by
  intro i s t h
  by_cases hi : i = .reset
  · subst hi
    obtain rfl := Host.Outcome.next.inj h
    exact ⟨fun _ => .inl ⟨rfl, rfl⟩, fun _ => .inl rfl⟩
  have heff := exec_effect hi h
  refine ⟨fun hmode => .inr ?_, fun hcfg => .inr (cfg_mem_writesOf (heff.mem_of_ne (f := .cfg) hcfg))⟩
  rcases mode_mem_writesOf (heff.mem_of_ne (f := .mode) hmode) with ⟨r, rfl⟩ | rfl
  · obtain ⟨hm, ⟨n, rfl⟩ | ⟨-, rfl⟩⟩ := execConfig_next h
    · exact absurd rfl hmode
    · exact .inl ⟨⟨r, rfl⟩, hm, rfl⟩
  · obtain ⟨hm, rfl⟩ | ⟨-, rfl⟩ := execShutdown_next h
    · exact .inr ⟨rfl, hm, rfl⟩
    · exact absurd rfl hmode

/-- Settles O53: each clause reads its field off the table of writers. -/
theorem stateFieldsHaveFixedWriters : Obligations.StateFieldsHaveFixedWriters := by
  intro i s t h
  by_cases hi : i = .reset
  · exact .inl hi
  have hw {f : StateField} : ¬ f.Same s t → f ∈ writesOf i := (exec_effect hi h).mem_of_ne
  exact .inr
    ⟨fun hf => crc16Table_mem_writesOf (hw hf), fun hf => clock_mem_writesOf (hw hf),
      fun hf => nextTxSeq_mem_writesOf (hw hf), fun hf => expectedRxSeq_mem_writesOf (hw hf),
      fun hf => sw_mem_writesOf (hw hf), fun hf => gbn_mem_writesOf (hw hf), fun hf => txq_mem_writesOf (hw hf),
      fun hf => ackq_mem_writesOf (hw hf), fun hf => rxIn_mem_writesOf (hw hf), fun hf => rxBuf_mem_writesOf (hw hf),
      fun hf => sends_of_mem_writesOf (hf.imp (hw (f := .txFreeAt)) (hw (f := .txOut))),
      fun hf => deliverOut_mem_writesOf (hw hf), fun hf => feedbackOut_mem_writesOf (hw hf)⟩

/-- Settles O54: the growth that every instruction's effect carries. -/
theorem countersAndOutputsOnlyGrow : Obligations.CountersAndOutputsOnlyGrow := by
  intro i s t hi h
  obtain ⟨htx, hdeliver, hfeedback, hfree, hcnt⟩ := (exec_effect hi h).grown
  exact ⟨htx, hdeliver, hfeedback, hfree, hcnt.txData, hcnt.rxData, hcnt.txAck, hcnt.rxAck, hcnt.retx, hcnt.crcFail,
    hcnt.winTimeout, hcnt.protoViolation⟩

end

section
/-!
The windows and exchanges of the ARQ engines keep their clauses of a safe state through every phase of a tick, and the
host's operations keep the safe states safe (O59); the reset state is one (O60).
-/

set_option Elab.async false

namespace Sys2Proof.Machine

/-! ### Windows -/

theorem contiguous_nil : Contiguous [] := fun _ hb => by cases hb

theorem endsAt_nil (next : Seq) : EndsAt [] next := fun _ he => by cases he

/-- What is left of a window in sequence is in sequence, from a later base (R31). -/
theorem Contiguous.drop {w : List WinEntry} (h : Contiguous w) (j : Nat) : Contiguous (w.drop j) := by
  intro base hb k hk
  have hjk : j + k < w.length := by simp only [List.length_drop] at hk; omega
  obtain ⟨hj, rfl⟩ : ∃ hj : j < w.length, w[j] = base := by
    simpa [List.head?_drop, List.getElem?_eq_some_iff] using hb
  have hhead : w[0] ∈ w.head? := by simp [List.head?_eq_getElem?, List.getElem?_eq_getElem (by omega : 0 < w.length)]
  rw [List.getElem_drop, h _ hhead (j + k) hjk, h _ hhead j hj, BitVec.ofNat_add, BitVec.add_assoc]

theorem EndsAt.drop {w : List WinEntry} {next : Seq} (h : EndsAt w next) (j : Nat) : EndsAt (w.drop j) next := by
  intro e he
  rw [Option.mem_def, List.getLast?_drop] at he
  split at he
  · cases he
  · exact h e he

/-- The next number to be allocated stands as far from the base as the window is long (R31, R181). -/
theorem Contiguous.next_eq {base : WinEntry} {w : List WinEntry} {next : Seq} (h : Contiguous (base :: w))
    (hn : EndsAt (base :: w) next) : next = base.seq + BitVec.ofNat 8 (base :: w).length := by
  have hlast : (base :: w)[w.length] ∈ (base :: w).getLast? := by
    simp [List.getLast?_eq_getElem?]
  rw [← hn _ hlast, h base rfl w.length (by simp), List.length_cons, BitVec.ofNat_add, BitVec.add_assoc]
  rfl

/-- A window in sequence stays so when the entry of the next number is put at its end (R189). -/
theorem Contiguous.push {w : List WinEntry} {e : WinEntry} (h : Contiguous w) (hn : EndsAt w e.seq) :
    Contiguous (w ++ [e]) := by
  intro base hb k hk
  cases w with
  | nil =>
    obtain rfl : e = base := by simpa using hb
    obtain rfl : k = 0 := by simpa using hk
    simp
  | cons b w =>
    obtain rfl : b = base := by simpa using hb
    rcases Nat.lt_or_ge k (b :: w).length with hlt | hge
    · rw [List.getElem_append_left hlt]
      exact h b rfl k hlt
    · obtain rfl : k = (b :: w).length := by simp only [List.length_append, List.length_singleton] at hk; omega
      rw [List.getElem_concat_length rfl]
      exact h.next_eq hn

theorem endsAt_push (w : List WinEntry) (e : WinEntry) : EndsAt (w ++ [e]) (e.seq + 1) := by
  intro x hx
  obtain rfl : e = x := by simpa using hx
  rfl

/-! ### What one window keeps -/

theorem gbnKept_empty (c : Cfg) (next : Seq) {g : GbnEntry} (h : g.window = []) : GbnKept c next g where
  mode := fun hw => absurd h hw
  budget := fun hw => absurd h hw
  bound := by simp [h]
  contiguous := h ▸ contiguous_nil
  newest := h ▸ endsAt_nil next
  owing := by simp [h]

/-- A window whose oldest entries are taken off, its retry count cleared or kept (R224). -/
theorem GbnKept.slide {c : Cfg} {next : Seq} {g : GbnEntry} (h : GbnKept c next g) (k retry deadline : Nat)
    (hr : g.window.drop k ≠ [] → retry ≤ c.maxRetries) : GbnKept c next ⟨g.window.drop k, retry, deadline⟩ where
  mode := fun hw => h.mode fun hg => hw (by simp [hg])
  budget := hr
  bound := le_trans (by simp) h.bound
  contiguous := h.contiguous.drop k
  newest := h.newest.drop k
  owing := fun e he => h.owing e (List.mem_of_mem_drop he)

/-- A window whose timer runs again within the retry budget (R226). -/
theorem GbnKept.retimed {c : Cfg} {next : Seq} {g : GbnEntry} (h : GbnKept c next g) {retry : Nat} (deadline : Nat)
    (hr : retry ≤ c.maxRetries) : GbnKept c next { g with retry := retry, deadline := deadline } :=
  { h with budget := fun _ => hr }

/-- A window with room takes the frame of the next number (R221). -/
theorem GbnKept.push {c : Cfg} {next : Seq} {g : GbnEntry} (h : GbnKept c next g) (frame : Bytes) {retry : Nat}
    (deadline : Nat) (hm : c.arqMode = .gbn) (hroom : g.window.length < c.windowSize) (hr : retry ≤ c.maxRetries) :
    GbnKept c (next + 1) ⟨g.window ++ [⟨next, frame, false, true⟩], retry, deadline⟩ where
  mode := fun _ => hm
  budget := fun _ => hr
  bound := by simpa using hroom
  contiguous := h.contiguous.push h.newest
  newest := endsAt_push g.window _
  owing := fun e he => by
    rcases List.mem_append.mp he with he | he
    · exact h.owing e he
    · obtain rfl := List.mem_singleton.mp he
      exact ⟨rfl, rfl⟩

/-! ### What the two engines keep for every destination -/

/-- What the ARQ engines keep for every destination: the `sw` and `gbn` clauses of a safe state. -/
structure ArqKept (s : State) : Prop where
  sw : ∀ d, SwKept s.cfg (peerGet s.sw d)
  gbn : ∀ d, GbnKept s.cfg (peerGet s.nextTxSeq d) (peerGet s.gbn d)

theorem ArqKept.congr {s t : State} (h : ArqKept s) (hc : t.cfg = s.cfg) (hs : t.sw = s.sw) (hg : t.gbn = s.gbn)
    (hn : t.nextTxSeq = s.nextTxSeq) : ArqKept t :=
  ⟨by rw [hc, hs]; exact h.sw, by rw [hc, hg, hn]; exact h.gbn⟩

theorem swKept_peerSet {c : Cfg} {m : PeerMap SwEntry} (h : ∀ k, SwKept c (peerGet m k)) (d : Addr) {x : SwEntry}
    (hx : SwKept c x) (k : Addr) : SwKept c (peerGet (peerSet m d x) k) := by
  rw [peerGet_peerSet]
  split
  · exact hx
  · exact h k

theorem gbnKept_peerSet {c : Cfg} {next : PeerMap Seq} {m : PeerMap GbnEntry}
    (h : ∀ k, GbnKept c (peerGet next k) (peerGet m k)) (d : Addr) {g : GbnEntry} (hg : GbnKept c (peerGet next d) g)
    (k : Addr) : GbnKept c (peerGet next k) (peerGet (peerSet m d g) k) := by
  rw [peerGet_peerSet]
  split
  · next hk => exact hk ▸ hg
  · exact h k

/-- Under Stop-and-Wait every window is empty (R30). -/
theorem GbnKept.window_eq_nil {c : Cfg} {next : Seq} {g : GbnEntry} (h : GbnKept c next g) (hm : c.arqMode = .sw) :
    g.window = [] := by
  by_contra hw
  exact absurd (hm.symm.trans (h.mode hw)) (by decide)

theorem swKept_idle (c : Cfg) {x : SwEntry} (h : x.state = .idle) : SwKept c x where
  mode := fun hs => absurd (h.symm.trans hs) (by decide)
  budget := fun hs => absurd (h.symm.trans hs) (by decide)

theorem swAck_keeps {s : State} (h : ArqKept s) (d : Addr) (n : Seq) : ArqKept (swAck d n s) := by
  rcases swAck_spec d n s with ⟨-, -, he⟩ | ⟨-, he⟩ <;> rw [he]
  · exact ⟨swKept_peerSet h.sw d (swKept_idle _ rfl), h.gbn⟩
  · exact h

theorem gbnAck_keeps {s : State} (h : ArqKept s) (d : Addr) (n : Seq) : ArqKept (gbnAck d n s) := by
  rcases gbnAck_spec d n s with ⟨-, he⟩ | ⟨k, -, -, -, he⟩ <;> rw [he]
  · exact h
  · exact ⟨h.sw, gbnKept_peerSet h.gbn d ((h.gbn d).slide k _ _ fun hw => by simp [hw])⟩

theorem swTimeout_keeps {s : State} (h : ArqKept s) (d : Addr) : ArqKept (swTimeout d s) := by
  rcases swTimeout_spec d s with ⟨-, he⟩ | ⟨-, -, hr, e, ds, n, -, he⟩ | ⟨-, -, -, he⟩ <;> rw [he]
  · exact h
  · exact ⟨swKept_peerSet h.sw d { h.sw d with budget := fun _ => hr }, h.gbn⟩
  · exact ⟨swKept_peerSet h.sw d (swKept_idle _ rfl), h.gbn⟩

theorem gbnTimeout_keeps {s : State} (h : ArqKept s) (d : Addr) : ArqKept (gbnTimeout d s) := by
  rcases gbnTimeout_spec d s with ⟨-, he⟩ | ⟨-, -, hr, evs, e, ds, n, -, -, -, -, -, -, -, he⟩ | ⟨-, -, -, he⟩ <;> rw [he]
  · exact h
  · exact ⟨h.sw, gbnKept_peerSet h.gbn d ((h.gbn d).retimed _ hr)⟩
  · exact ⟨h.sw, gbnKept_peerSet h.gbn d (gbnKept_empty _ _ rfl)⟩

/-- Under Stop-and-Wait an allocated number moves past no window: all of them are empty. -/
theorem swStart_keeps {s : State} (h : ArqKept s) (hm : s.cfg.arqMode = .sw) (d : Addr) (p : Bytes) :
    ArqKept (swStart d p s) := by
  by_cases hp : p.length ≤ 255
  · obtain ⟨e, ds, n, -, he⟩ := swStart_spec d p s hp
    rw [he]
    exact ⟨swKept_peerSet h.sw d ⟨fun _ => hm, fun _ => Nat.zero_le _⟩,
      fun k => gbnKept_empty _ _ ((h.gbn k).window_eq_nil hm)⟩
  · rw [swStart_long d p s (by omega)]
    exact h.congr rfl rfl rfl rfl

/-- An admitted frame carries the number after the newest entry's, and the next number moves on with it (R221). -/
theorem gbnAdmit_keeps {s : State} (h : ArqKept s) (hm : s.cfg.arqMode = .gbn) (d : Addr) (p : Bytes)
    (hroom : (peerGet s.gbn d).window.length < s.cfg.windowSize) : ArqKept (gbnAdmit d p s) := by
  by_cases hp : p.length ≤ 255
  · obtain ⟨e, ds, n, -, he⟩ := gbnAdmit_spec d p s hp
    rw [he]
    refine ⟨h.sw, fun k => ?_⟩
    simp only [peerGet_peerSet]
    split
    · refine (h.gbn d).push _ _ hm hroom ?_
      split
      · exact Nat.zero_le _
      · next hw => exact (h.gbn d).budget hw
    · exact h.gbn k
  · rw [gbnAdmit_long d p s (by omega)]
    exact h.congr rfl rfl rfl rfl

/-! ### The phases of a tick keep it -/

theorem ackOne_keeps {s : State} (h : ArqKept s) (a : AckNote) : ArqKept (ackOne a s) := by
  unfold ackOne
  split
  · exact swAck_keeps h a.src a.seq
  · exact gbnAck_keeps h a.src a.seq

theorem drainAcks_keeps (as : List AckNote) {s : State} (h : ArqKept s) : ArqKept (drainAcks as s) := by
  induction as generalizing s with
  | nil => exact h
  | cons a as ih =>
    have hq : ArqKept { s with ackq := as } := h.congr rfl rfl rfl rfl
    exact ih (ackOne_keeps hq a)

theorem timerOne_keeps {s : State} (h : ArqKept s) (k : Addr) : ArqKept (timerOne s k) := by
  unfold timerOne
  split
  · exact swTimeout_keeps h k
  · exact gbnTimeout_keeps h k

theorem timers_keep (ks : List Addr) {s : State} (h : ArqKept s) : ArqKept (ks.foldl timerOne s) := by
  induction ks generalizing s with
  | nil => exact h
  | cons k ks ih => exact ih (timerOne_keeps h k)

/-- Admission keeps it because the room test comes first (R258). -/
theorem admitOne_keeps {s : State} (h : ArqKept s) (m : Message) (hroom : hasRoom s m.dst = true) :
    ArqKept (admitOne m s) := by
  unfold hasRoom at hroom
  unfold admitOne
  split
  · next hm => exact swStart_keeps h hm m.dst m.payload
  · next hm =>
    rw [hm] at hroom
    exact gbnAdmit_keeps h hm m.dst m.payload (of_decide_eq_true hroom)

theorem admitLoop_keeps (ms : List Message) {s : State} (h : ArqKept s) : ArqKept (admitLoop ms s) := by
  induction ms generalizing s with
  | nil => exact h
  | cons m ms ih =>
    unfold admitLoop
    split
    · next hroom =>
      have hq : ArqKept { s with txq := ms } := h.congr rfl rfl rfl rfl
      exact ih (admitOne_keeps hq m hroom)
    · exact h

/-- A receive path writes nothing the engines keep (R268). -/
theorem RxMoved.arqKept {s t : State} (hm : RxMoved s t) (h : ArqKept s) : ArqKept t :=
  h.congr (hm.kept .cfg (by simp)) (hm.kept .sw (by simp)) (hm.kept .gbn (by simp)) (hm.kept .nextTxSeq (by simp))

theorem nodeRx_keeps {s : State} (h : ArqKept s) : ArqKept (nodeRx s) := by
  obtain ⟨-, hm, -⟩ := nodeRx_spec s
  exact hm.arqKept (h.congr rfl rfl rfl rfl)

theorem tickPhases_keep {s : State} (h : ArqKept s) : ArqKept (tickPhases s) :=
  nodeRx_keeps (admitLoop_keeps _ (timers_keep allAddrs (drainAcks_keeps s.ackq h)))

/-- A tick leaves an end of the message queue (R258). -/
theorem tickPhases_txq (s : State) : (tickPhases s).txq <:+ s.txq := by
  have hrx : (tickPhases s).txq = (nodeAdmit (nodeTimers (nodeAcks s))).txq := (nodeRx_effect _).kept .txq (by simp)
  have htimers : (nodeTimers (nodeAcks s)).txq = (nodeAcks s).txq := (nodeTimers_effect _).kept .txq (by simp)
  have hacks : (nodeAcks s).txq = s.txq := (nodeAcks_effect s).kept .txq (by simp)
  rw [hrx, ← hacks, ← htimers]
  exact (nodeAdmit_frame _).2

/-! ### Safe states -/

theorem settled_of_empty {s : State} (h : s.rxBuf = []) : Settled s := by
  refine .inl ⟨?_, by simp [h]⟩
  unfold decodeOutcome
  rw [h, findSync_short (by simp)]

theorem emissionsInOrder_of_empty {s : State} (h : s.txOut = []) : EmissionsInOrder s :=
  ⟨by simp [h], by simp [h]⟩

theorem SafeState.arqKept {s : State} (h : SafeState s) : ArqKept s := ⟨h.sw, h.gbn⟩

theorem arqKept_of_rest {s : State} (h : ∀ d, AtRest s d) : ArqKept s :=
  ⟨fun d => swKept_idle _ (h d).1, fun d => gbnKept_empty _ _ (h d).2⟩

/-- A node with nothing pending is safe in every mode, given its table, its configuration once there is one, the order
of its emissions and its port. -/
theorem safeState_of_quiet {s : State} (hq : Quiet s) (ht : s.crc16Table = crc16TableConst)
    (hc : s.mode ≠ .unconfigured → CfgValid s.cfg) (he : EmissionsInOrder s) (hp : ∀ r ∈ s.port, r.issuer = .host) :
    SafeState s where
  table := ht
  quiet := fun _ => hq
  cfg := hc
  queue := fun _ => by simp [hq.txq]
  payloads := by simp [hq.txq]
  sw := (arqKept_of_rest hq.rest).sw
  gbn := (arqKept_of_rest hq.rest).gbn
  emissions := he
  settled := settled_of_empty hq.rxBuf
  hostOnly := hp

/-- A test of R252 that names no failing clause has passed its own. -/
theorem clause_passes {p : Prop} [Decidable p] {n : Nat} {later : Option Nat}
    (h : (if p then some n else later) = none) : ¬ p ∧ later = none := by
  split at h
  · cases h
  · next hp => exact ⟨hp, h⟩

/-- The clauses of R252, none of which fails, hold of the latched record. -/
theorem cfgValid_of_no_fail {r : CfgRequest} (h : cfgFirstFail r = none) : CfgValid (toCfg r) := by
  obtain ⟨haddr, h⟩ := clause_passes h
  obtain ⟨-, h⟩ := clause_passes h
  obtain ⟨hwindow, h⟩ := clause_passes h
  obtain ⟨htimers, h⟩ := clause_passes h
  obtain ⟨hprob, h⟩ := clause_passes h
  obtain ⟨hbackoff, h⟩ := clause_passes h
  obtain ⟨-, h⟩ := clause_passes h
  obtain ⟨hsync, h⟩ := clause_passes h
  obtain ⟨hqueue, -⟩ := clause_passes h
  exact ⟨haddr, not_not.mp hwindow, not_not.mp htimers, not_not.mp hprob, not_not.mp hbackoff, not_not.mp hsync,
    not_not.mp hqueue⟩

theorem atRest_reset {s : State} (hs : s.sw = State.reset.sw) (hg : s.gbn = State.reset.gbn) (d : Addr) :
    AtRest s d := by
  unfold AtRest
  rw [hs, hg]
  simp [State.reset, SwEntry.reset, GbnEntry.reset]

theorem atRest_toStopped (s : State) (d : Addr) : AtRest s.toStopped d := by
  simp [AtRest, State.toStopped, SwEntry.toIdle, GbnEntry.toIdle]

/-! ### The host operations keep them -/

/-- The response and the trace are no part of safety. -/
theorem SafeState.answer_trace {s : State} (h : SafeState s) (r : Response) (tr : List Cause) :
    SafeState { s with result := r, trace := tr } :=
  { h with
    quiet := fun hm => { h.quiet hm with }
    emissions := { h.emissions with } }

theorem SafeState.port_tail {s : State} (h : SafeState s) {r : Request} {rest : List Request} (hp : s.port = r :: rest) :
    SafeState { s with port := rest } :=
  { h with
    quiet := fun hm => { h.quiet hm with }
    emissions := { h.emissions with }
    hostOnly := fun q hq => h.hostOnly q (hp ▸ List.mem_cons_of_mem r hq) }

theorem execReset_safe {s t : State} (h : SafeState s) (he : execReset s = .next t) : SafeState t := by
  obtain rfl := Host.Outcome.next.inj he
  exact safeState_of_quiet ⟨rfl, rfl, rfl, rfl, atRest_reset rfl rfl⟩ crc16Build_eq (fun hm => absurd rfl hm)
    (emissionsInOrder_of_empty rfl) h.hostOnly

theorem execConfig_safe {r : CfgRequest} {s t : State} (h : SafeState s) (he : execConfig r s = .next t) :
    SafeState t := by
  obtain ⟨hm, ⟨n, rfl⟩ | ⟨hr, rfl⟩⟩ := execConfig_next he
  · exact h.answer_trace _ _
  · have hq : Quiet s := h.quiet (by simp [hm])
    exact safeState_of_quiet { hq with } h.table (fun _ => cfgValid_of_no_fail hr)
      { h.emissions with } h.hostOnly

theorem execSubmit_safe {d : Addr} {p : Bytes} {s t : State} (h : SafeState s) (he : execSubmit d p s = .next t) :
    SafeState t := by
  obtain ⟨hm, rfl | rfl | ⟨hp, hroom, rfl⟩⟩ := execSubmit_next he
  · exact h.answer_trace _ _
  · exact h.answer_trace _ _
  · exact
      { h with
        quiet := fun hn => absurd hm hn
        queue := fun _ => by simpa using hroom
        payloads := fun m hmem => by
          rcases List.mem_append.mp hmem with hmem | hmem
          · exact h.payloads m hmem
          · obtain rfl := List.mem_singleton.mp hmem
            exact hp
        emissions := { h.emissions with } }

theorem execRxBytes_safe {b : Bytes} {s t : State} (h : SafeState s) (he : execRxBytes b s = .next t) :
    SafeState t := by
  obtain ⟨hm, rfl⟩ := execRxBytes_next he
  exact
    { h with
      quiet := fun hn => absurd hm hn
      emissions := { h.emissions with } }

/-- A tick keeps the engines phase by phase, leaves an end of the queue, and settles the buffer last. -/
theorem tickPhases_safe {s : State} (h : SafeState s) (hm : s.mode = .run) : SafeState (tickPhases s) := by
  have hg := tickPhases_grows s
  have harq := tickPhases_keep h.arqKept
  have htxq := tickPhases_txq s
  obtain ⟨-, -, hsettled, -⟩ := nodeRx_spec (nodeAdmit (nodeTimers (nodeAcks s)))
  exact
    { table := hg.table.trans h.table
      quiet := fun hn => absurd (hg.mode.trans hm) hn
      cfg := fun _ => by rw [hg.cfg]; exact h.cfg (by simp [hm])
      queue := fun _ => by rw [hg.cfg]; exact htxq.length_le.trans (h.queue hm)
      payloads := fun m hmem => h.payloads m (htxq.subset hmem)
      sw := harq.sw
      gbn := harq.gbn
      emissions := hg.emissions h.emissions
      settled := hsettled
      hostOnly := by rw [hg.port]; exact h.hostOnly }

theorem execTick_safe {now : Nat} {free : List Draw} {s t : State} (h : SafeState s)
    (he : execTick now free s = .next t) : SafeState t := by
  obtain ⟨hm, rfl⟩ := execTick_next he
  have hstart : SafeState { s.supplyDraws free with clock := now } :=
    { h with
      quiet := fun hn => absurd hm hn
      emissions := { h.emissions with } }
  exact (tickPhases_safe hstart hm).answer_trace _ _

theorem execShutdown_safe {s t : State} (h : SafeState s) (he : execShutdown s = .next t) : SafeState t := by
  obtain ⟨hm, rfl⟩ | ⟨-, rfl⟩ := execShutdown_next he
  · exact (safeState_of_quiet (s := s.toStopped) ⟨rfl, rfl, rfl, rfl, atRest_toStopped s⟩ h.table
      (fun _ => h.cfg (by simp [hm])) { h.emissions with } h.hostOnly).answer_trace _ _
  · exact h.answer_trace _ _

/-- Every operation of the host keeps the safe states safe (R118 gives the host these ten). -/
theorem exec_host_safe {i : Instr} {s t : State} (hk : i.kind = .host) (h : SafeState s) (he : exec i s = .next t) :
    SafeState t := by
  have answered (r : Response) (hn : (Host.Outcome.next (s.answer r) : Answer) = .next t) : SafeState t :=
    Host.Outcome.next.inj hn ▸ h.answer_trace r s.trace
  cases i with
  | reset => exact execReset_safe h he
  | config r => exact execConfig_safe h he
  | submit d p => exact execSubmit_safe h he
  | rxBytes b => exact execRxBytes_safe h he
  | tick now free => exact execTick_safe h he
  | shutdown => exact execShutdown_safe h he
  | statsRead => exact answered _ (acceptedIn_next he).2
  | bframeEncode a q c => exact answered _ (next_of_guard (profileBAccepted_next he)).2
  | bframeCheck b => exact answered _ (profileBAccepted_next he)
  | bframe a q c k => exact answered _ (profileBAccepted_next he)
  | _ => cases hk

/-- A step that answers a next state found no request, or ran the instruction of the first one, which its issuer may
issue (R265, R305). -/
theorem step_next {s t : State} (h : step s = .next t) :
    t = s ∨ ∃ q rest i, s.port = q :: rest ∧ ¬ (q.issuer = .host ∧ i.kind = .core) ∧
      exec i { s with port := rest } = .next t := by
  unfold step fetch at h
  cases hp : s.port with
  | nil =>
    rw [hp] at h
    exact .inl (Host.Outcome.next.inj h).symm
  | cons q rest =>
    rw [hp] at h
    simp only at h
    cases hd : decode q.format q.bytes with
    | error e =>
      rw [hd] at h
      cases h
    | ok i =>
      rw [hd] at h
      simp only at h
      split at h
      · cases h
      · next hi => exact .inr ⟨q, rest, i, rfl, hi, h⟩

theorem kind_eq_host_of_ne_core {i : Instr} (h : i.kind ≠ .core) : i.kind = .host := by
  cases hk : i.kind with
  | host => rfl
  | core => exact absurd hk h

end Sys2Proof.Machine

open Sys2Proof Sys2Proof.Machine

/-- Settles O60: nothing is pending after reset, the table is R132's and the port is empty. -/
theorem resetStateIsSafe : Obligations.ResetStateIsSafe :=
  safeState_of_quiet ⟨rfl, rfl, rfl, rfl, atRest_reset rfl rfl⟩ rfl (fun hm => absurd rfl hm)
    (emissionsInOrder_of_empty rfl) (fun r hr => by cases hr)

/-- Settles O59: only the host is at the port of a safe state, so the step runs one of the host's operations, and each of
these keeps the safe states safe. -/
theorem everyStepKeepsTheNodeSafe : Obligations.EveryStepKeepsTheNodeSafe := by
  intro s t h hstep
  rcases step_next hstep with rfl | ⟨q, rest, i, hp, hi, he⟩
  · exact h
  · have hq : q.issuer = .host := h.hostOnly q (by simp [hp])
    exact exec_host_safe (kind_eq_host_of_ne_core fun hk => hi ⟨hq, hk⟩) (h.port_tail hp) he

end

section
/-!
Decoding inverts encoding (spec/30_encoding.md): what each operation's operand parser reads of its encoder's bytes, the
classes of a profile A header and the field split of a profile B bit string (O56, O57), and words written out from the
spec (O58).
-/

namespace Sys2Proof

/-! ### Operand layouts that several operations share (R118, log 2) -/

theorem byte_byte_reads (g : Byte → Byte → Instr) (a b : Byte) :
    Reads (getByte >>= fun x => getByte >>= fun y => pure (g x y)) [a, b] (g a b) :=
  (getByte_reads a).bind (getByte_reads b).map

theorem byte_bytes_reads (g : Byte → Bytes → Instr) (d : Byte) (p : Bytes) :
    Reads (getByte >>= fun x => getBytes >>= fun y => pure (g x y)) (d :: encBytes p) (g d p) :=
  (getByte_reads d).bind (getBytes_reads p).map

/-- The words of an operation are its select code and, after it, its operands. -/
theorem encode_op {i : Instr} (h : i.format = .op) : encode i = (.op, i.firstByte :: (encode i).2.tail) := by
  cases i with
  | data | ack | ackWithPayload | unknownType | bframe => cases h
  | _ => rfl

/-- The operands of every operation are read back by the parser that its select code chooses (R118). -/
theorem encode_operands_read {i : Instr} (h : i.format = .op) :
    Reads (getOperands i.firstByte) (encode i).2.tail i := by
  cases i with
  | reset => exact Reads.pure _
  | config r => exact (getCfgRequest_reads r).map
  | submit d p => exact byte_bytes_reads .submit d p
  | rxBytes b => exact (getBytes_reads b).map
  | tick t f => exact (getNat_reads t).bind (getDraws_reads f).map
  | shutdown => exact Reads.pure _
  | statsRead => exact Reads.pure _
  | crc16Table => exact Reads.pure _
  | crc16 b => exact (getBytes_reads b).map
  | crc16Verify b c => exact (getBytes_reads b).bind (getU16_reads c).map
  | crc32Rem b => exact (getBits_reads b).map
  | crc32Check b => exact (getBits_reads b).map
  | crc32Gen b => exact (getBits_reads b).map
  | frameEncode s d q t p => exact (getFrame_reads ⟨s, d, q, t, p⟩).map
  | frameDecode b => exact (getBytes_reads b).map
  | bframeEncode a q c =>
    have e : (encode (.bframeEncode a q c)).2.tail = encNat a ++ (encNat q ++ encBits c) := List.append_assoc ..
    rw [e]
    exact (getNat_reads a).bind ((getNat_reads q).bind (getBits_reads c).map)
  | bframeCheck b => exact (getBits_reads b).map
  | seqAlloc d => exact (getByte_reads d).map
  | seqDist a b => exact byte_byte_reads .seqDist a b
  | seqNewer a b => exact byte_byte_reads .seqNewer a b
  | seqAccept s n => exact byte_byte_reads .seqAccept s n
  | winPush d q f l =>
    exact (getByte_reads d).bind ((getByte_reads q).bind ((getBytes_reads f).bind (getBool_reads l).map))
  | winCover d n => exact byte_byte_reads .winCover d n
  | winSlide d k => exact (getByte_reads d).bind (getNat_reads k).map
  | winClear d => exact (getByte_reads d).map
  | swStart d p => exact byte_bytes_reads .swStart d p
  | swAck s n => exact byte_byte_reads .swAck s n
  | swTimeout d => exact (getByte_reads d).map
  | gbnAdmit d p => exact byte_bytes_reads .gbnAdmit d p
  | gbnAck s n => exact byte_byte_reads .gbnAck s n
  | gbnTimeout d => exact (getByte_reads d).map
  | macSend f t d =>
    have e : (encode (.macSend f t d)).2.tail = encBytes f ++ (encNat t ++ encDraw d) := List.append_assoc ..
    rw [e]
    exact (getBytes_reads f).bind ((getNat_reads t).bind (getDraw_reads d).map)
  | nodeAcks => exact Reads.pure _
  | nodeTimers => exact Reads.pure _
  | nodeAdmit => exact Reads.pure _
  | nodeRx => exact Reads.pure _
  | nodeRxFrame f => exact (getFrame_reads f).map
  | nodeRxData f => exact (getFrame_reads f).map
  | data | ack | ackWithPayload | unknownType | bframe => cases h

/-! ### Profile A (R91, R93, R103) -/

theorem classifyFrame_ackWithPayload (s d q : Byte) {p : Bytes} (h : p.isEmpty = false) :
    classifyFrame s d q typeAck p = .ackWithPayload s d q p := by
  have hne : typeAck ≠ typeData := by decide
  simp [classifyFrame, hne, h]

theorem classifyFrame_unknownType (s d q : Byte) {t : Byte} (p : Bytes) (hd : t ≠ typeData) (ha : t ≠ typeAck) :
    classifyFrame s d q t p = .unknownType s d q t p := by
  rw [classifyFrame, if_neg hd, if_neg ha]

/-- A header and a payload that its length byte can count decode to the frame's class. -/
theorem decode_encAFrame {s d q t : Byte} {p : Bytes} {i : Instr} (h : p.length ≤ 255)
    (hclass : classifyFrame s d q t p = i) : decode .aFrame (encAFrame s d q t p) = .ok i := by
  have hlen : (BitVec.ofNat 8 p.length).toNat = p.length := by
    rw [BitVec.toNat_ofNat]; exact Nat.mod_eq_of_lt (by omega)
  simp [decode, encAFrame, decodeAFrame, hlen, dropPadding, hclass]

theorem length_le_of_fitsLen {p : Bytes} (h : fitsLen p = true) : p.length ≤ 255 := of_decide_eq_true h

/-! ### Profile B (R105) -/

/-- The words of a bit string, one byte a bit, decode to its fields (log 4). -/
theorem decode_map_boolByte (b : Bits) : decode .bFrame (b.map boolByte) = splitBFrame b := by
  have h := getMany_reads getBool_reads b []
  rw [← List.map_eq_flatMap, List.append_nil] at h
  show decodeBFrame _ = _
  rw [decodeBFrame, List.length_map, h]

theorem ofNat_bitsVal_binW {w : Nat} (v : BitVec w) : BitVec.ofNat w (bitsVal (binW w v.toNat)) = v := by
  rw [bitsVal_binW_of_lt v.isLt, BitVec.ofNat_toNat, BitVec.setWidth_eq]

/-- The four parts of a bit string with a two-bit and a six-bit field in front. -/
theorem bframe_parts {a q : Bits} (c k : Bits) (ha : a.length = 2) (hq : q.length = 6) :
    (a ++ q ++ c ++ k).take 2 = a ∧ ((a ++ q ++ c ++ k).drop 2).take 6 = q ∧
      ((a ++ q ++ c ++ k).drop 8).take c.length = c ∧ (a ++ q ++ c ++ k).drop (8 + c.length) = k := by
  have h8 : (a ++ q).length = 8 := by rw [List.length_append, ha, hq]
  refine ⟨?_, ?_, ?_, ?_⟩
  · rw [List.append_assoc, List.append_assoc, ← ha, List.take_left]
  · rw [List.append_assoc, List.append_assoc, ← ha, List.drop_left, ← hq, List.take_left]
  · rw [List.append_assoc (a ++ q), ← h8, List.drop_left, List.take_left]
  · rw [← h8, ← List.length_append, List.drop_left]

section
open Machine
variable (addr : BitVec 2) (seq : BitVec 6) (chunk : Bits) (crc : U32)

theorem bframeFieldBits_length : (bframeFieldBits addr seq chunk crc).length = 40 + chunk.length := by
  simp only [bframeFieldBits, List.length_append, binW_length]
  omega

theorem bframeFieldBits_parts :
    (bframeFieldBits addr seq chunk crc).take 2 = binW 2 addr.toNat ∧
      ((bframeFieldBits addr seq chunk crc).drop 2).take 6 = binW 6 seq.toNat ∧
      ((bframeFieldBits addr seq chunk crc).drop 8).take chunk.length = chunk ∧
      (bframeFieldBits addr seq chunk crc).drop (8 + chunk.length) = binW 32 crc.toNat :=
  bframe_parts chunk _ (binW_length 2 _) (binW_length 6 _)

/-- The fields of R105 are split where they were joined. -/
theorem splitBFrame_bframeFieldBits :
    splitBFrame (bframeFieldBits addr seq chunk crc) = .ok (.bframe addr seq chunk crc) := by
  obtain ⟨ha, hq, hc, hk⟩ := bframeFieldBits_parts addr seq chunk crc
  simp only [splitBFrame, bframeFieldBits_length, Nat.add_sub_cancel_left, ha, hq, hc, hk, ofNat_bitsVal_binW]
  rw [if_neg (by omega)]

end

end Sys2Proof

open Sys2Proof

/-- Settles O56: each operation's parser reads its operands back, and zero padding is dropped. -/
theorem decodeInvertsEncodeOnOperations : Obligations.DecodeInvertsEncodeOnOperations := by
  intro i pad h
  rw [encode_op h]
  exact decode_op_of_reads (encode_operands_read h) pad

/-- Settles O57: a header and payload are classified as they were encoded, and a bit string is split into its fields. -/
theorem decodeInvertsEncodeOnWirePatterns : Obligations.DecodeInvertsEncodeOnWirePatterns := by
  intro i hformat hwf
  cases i with
  | data s d q p => exact decode_encAFrame (length_le_of_fitsLen hwf) rfl
  | ack s d q => exact decode_encAFrame (Nat.zero_le _) rfl
  | ackWithPayload s d q p =>
    obtain ⟨hfits, hne⟩ : fitsLen p = true ∧ p.isEmpty = false := by simpa [Instr.wellFormed] using hwf
    exact decode_encAFrame (length_le_of_fitsLen hfits) (classifyFrame_ackWithPayload s d q hne)
  | unknownType s d q t p =>
    obtain ⟨⟨hfits, hd⟩, ha⟩ : (fitsLen p = true ∧ t ≠ typeData) ∧ t ≠ typeAck := by simpa [Instr.wellFormed] using hwf
    exact decode_encAFrame (length_le_of_fitsLen hfits) (classifyFrame_unknownType s d q p hd ha)
  | bframe addr seq chunk crc => exact (decode_map_boolByte _).trans (splitBFrame_bframeFieldBits addr seq chunk crc)
  | _ => exact absurd rfl hformat

/-- Settles O58: the decoder run on the words. -/
theorem wordsOfTheSpecDecode : Obligations.WordsOfTheSpecDecode :=
  ⟨rfl, rfl, rfl, rfl, rfl, rfl, rfl, rfl, rfl⟩

end

section
/-!
Frames on the two sides of the link: the layout that `FRAME.ENCODE` writes (O8), a profile B frame whose check bits are
the remainder of what stands before them (O15), and the routing of the four profile A patterns (O43).
-/

namespace Sys2Proof.Machine

/-! ### FRAME.ENCODE (R104, R152) -/

/-- The CRC's bytes, high byte first, as the shift and the truncation that R100 writes. -/
theorem crcBytes_eq (c : U16) : crcBytes c = [(c >>> 8).setWidth 8, c.setWidth 8] := by
  have hhigh : c.extractLsb' 8 8 = (c >>> 8).setWidth 8 := rfl
  have hlow : c.extractLsb' 0 8 = c.setWidth 8 := rfl
  rw [crcBytes, hhigh, hlow]

section
variable {s : State} {src dst seq ty : Byte} {p : Bytes}

theorem execFrameEncode_legal (h : p.length ≤ 255) (ht : ty = typeData ∨ (ty = typeAck ∧ p = [])) :
    execFrameEncode src dst seq ty p s =
      .next (s.answer (.bytes (frameBytes s.cfg s.crc16Table src dst seq ty p))) := by
  rw [execFrameEncode, encodeFrame_fits h]
  exact if_pos ht

theorem execFrameEncode_illegal (h : p.length ≤ 255) (ht : ¬ (ty = typeData ∨ (ty = typeAck ∧ p = []))) :
    execFrameEncode src dst seq ty p s = .refused .illegalFrameRequest := by
  rw [execFrameEncode, encodeFrame_fits h]
  exact if_neg ht

end

/-! ### The profile B check (R105, R168) -/

/-- A string leaves no remainder exactly when its value is a multiple of the generator (R139). -/
theorem crc32RemOf_eq_zero_iff (bits : Bits) : crc32RemOf bits = 0 ↔ Crc32Multiple (bitsVal bits) := by
  have hlt : bitsVal bits * 2 ^ 32 < 2 ^ (bits.length + 32) := by
    rw [Nat.pow_add]
    exact Nat.mul_lt_mul_of_pos_right (bitsVal_lt bits) (by decide)
  rw [crc32RemOf_eq_sweep bits (le_refl _), ← crc32Multiple_iff_sweep hlt, ← Nat.shiftLeft_eq]
  exact ⟨Crc32Multiple.of_shiftLeft 32, fun h => h.shiftLeft 32⟩

/-- Data followed by 32 bits passes the check exactly when these write the data's remainder: the sweep is linear, takes
the data with 32 zeros to its remainder and leaves the 32 bits as they are. -/
theorem crc32RemOf_append_eq_zero_iff (d : Bits) {g : Bits} (hg : g.length = 32) :
    crc32RemOf (d ++ g) = 0 ↔ bitsVal g = crc32RemOf d := by
  have hglt : bitsVal g < 2 ^ 32 := hg ▸ bitsVal_lt g
  have hlt : bitsVal (d ++ g) < 2 ^ (d.length + 32) := by simpa [hg] using bitsVal_lt (d ++ g)
  have hsweep : sweep d.length (bitsVal (d ++ g)) = crc32RemOf d ^^^ bitsVal g := by
    rw [bitsVal_append, hg, shift_add_eq_xor _ hglt, sweep_xor, sweep_small hglt,
      crc32RemOf_eq_sweep d (le_refl _)]
  rw [crc32RemOf_eq_zero_iff, crc32Multiple_iff_sweep hlt, hsweep, Nat.xor_eq_zero_iff, eq_comm]

section
variable (addr : BitVec 2) (seq : BitVec 6) (chunk : Bits) (crc : U32)

theorem crc32CheckOf_bframeFieldBits :
    crc32CheckOf (bframeFieldBits addr seq chunk crc) =
      decide (crc.toNat = crc32RemOf (binW 2 addr.toNat ++ binW 6 seq.toNat ++ chunk)) := by
  have h := crc32RemOf_append_eq_zero_iff (binW 2 addr.toNat ++ binW 6 seq.toNat ++ chunk) (binW_length 32 crc.toNat)
  rw [bitsVal_binW_of_lt crc.isLt] at h
  rw [crc32CheckOf, bframeFieldBits, ← decide_eq_decide.mpr h]
  rfl

/-- `BFRAME.CHECK` on the bits of a frame's fields (R168). -/
theorem bframeOutcome_bframeFieldBits (n : Nat) :
    bframeOutcome n (bframeFieldBits addr seq chunk crc) =
      if chunk.length = n ∧ crc.toNat = crc32RemOf (binW 2 addr.toNat ++ binW 6 seq.toNat ++ chunk) then
        .good addr.toNat seq.toNat chunk
      else .bad := by
  obtain ⟨ha, hq, hc, -⟩ := bframeFieldBits_parts addr seq chunk crc
  rw [bframeOutcome, bframeFieldBits_length, crc32CheckOf_bframeFieldBits]
  by_cases hn : chunk.length = n
  · subst hn
    simp [ha, hq, hc, bitsVal_binW_of_lt, addr.isLt, seq.isLt]
  · simp [hn]

end

/-! ### Routing by address and type (R263) -/

section
variable {f : Frame} {s : State}

theorem nodeRxFrame_stranger (h : f.dst ≠ s.cfg.nodeAddr ∧ f.dst ≠ broadcast) : nodeRxFrame f s = s := if_pos h

section
variable (h : f.dst = s.cfg.nodeAddr ∨ f.dst = broadcast)
include h

theorem not_stranger_of_addressed : ¬ (f.dst ≠ s.cfg.nodeAddr ∧ f.dst ≠ broadcast) := by tauto

theorem nodeRxFrame_data (ht : f.ty = typeData) : nodeRxFrame f s = nodeRxData f s := by
  rw [nodeRxFrame, if_neg (not_stranger_of_addressed h), if_pos ht]

theorem nodeRxFrame_typeAck (ht : f.ty = typeAck) :
    nodeRxFrame f s = if f.payload ≠ [] then raise .ackWithPayload s
      else { s.count .rxAck with ackq := s.ackq ++ [⟨f.src, f.seq⟩] } := by
  have hd : f.ty ≠ typeData := by rw [ht]; decide
  rw [nodeRxFrame, if_neg (not_stranger_of_addressed h), if_neg hd, if_pos ht]

theorem nodeRxFrame_unknownType (hd : f.ty ≠ typeData) (ha : f.ty ≠ typeAck) :
    nodeRxFrame f s = raise .unknownType s := by
  rw [nodeRxFrame, if_neg (not_stranger_of_addressed h), if_neg hd, if_neg ha]

end

end

/-- `NODE.RX_DATA` (R264) with its verdict, its delivery and its ACK in one record update. -/
theorem nodeRxData_eq (f : Frame) (s : State) (hb : s.cfg.backoffMin ≤ s.cfg.backoffMax) :
    ∃ e ds n, EmittedAt s.cfg s.clock s.txFreeAt e ∧ DrawsConsumed s ds n ∧
      nodeRxData f s = { s with
        expectedRxSeq := if f.seq = peerGet s.expectedRxSeq f.src then
          peerSet s.expectedRxSeq f.src (peerGet s.expectedRxSeq f.src + 1) else s.expectedRxSeq
        deliverOut := if f.seq = peerGet s.expectedRxSeq f.src then
          s.deliverOut ++ [⟨f.src, f.payload⟩] else s.deliverOut
        txFreeAt := e
        txOut := s.txOut ++ [⟨frameBytes s.cfg s.crc16Table s.cfg.nodeAddr f.src (ackNumber f s) typeAck [], e⟩]
        cnt := (s.cnt.inc .rxData).inc .txAck
        draws := ds
        drawCount := n } := by
  obtain ⟨e, ds, n, hsent, h⟩ := nodeRxData_spec f s
  refine ⟨e, ds, n, hsent.emitted hb, ⟨hsent.consumed, hsent.counted⟩, h.trans ?_⟩
  by_cases hseq : f.seq = peerGet s.expectedRxSeq f.src
  · simp [afterVerdict, hseq]
  · simp [afterVerdict, hseq]

end Sys2Proof.Machine

open Sys2Proof Sys2Proof.Machine

/-- Settles O8: the encoder's length test passes, and its type test is the one of R104. -/
theorem frameEncodeWritesTheLayout : Obligations.FrameEncodeWritesTheLayout := by
  intro s src dst seq ty p hlen
  refine ⟨⟨rfl, rfl⟩, fun ht => ⟨_, rfl, ?_⟩, fun ht => execFrameEncode_illegal hlen ht⟩
  refine (execFrameEncode_legal hlen ht).trans ?_
  rw [frameBytes, crcBytes_eq, frameBody, ← List.append_assoc (_ ++ _)]
  rfl

/-- Settles O15: the outcome of the check on the frame's fields, behind the guard of the profile B operations. -/
theorem bframeOnTheWireIsChecked : Obligations.BframeOnTheWireIsChecked := by
  intro s addr seq chunk crc
  refine ⟨fun hm hp => ?_, fun hm hp => profileBAccepted_disabled hm hp _, fun hm => profileBAccepted_unconfigured hm _⟩
  have hrun : exec (.bframe addr seq chunk crc) s = .next (s.answer (.bframe
      (if chunk.length = s.cfg.chunkBits ∧
          crc.toNat = crc32RemOf (binW 2 addr.toNat ++ binW 6 seq.toNat ++ chunk) then
        .good addr.toNat seq.toNat chunk else .bad))) := by
    rw [← bframeOutcome_bframeFieldBits]
    exact profileBAccepted_enabled hm hp _
  rw [hrun]
  exact ⟨fun hl hc => by rw [if_pos ⟨hl, hc⟩]; rfl, fun h => by rw [if_neg h]; rfl⟩

/-- Settles O43: each pattern is routed as the frame of its fields. -/
theorem framesOnTheWireAreRouted : Obligations.FramesOnTheWireAreRouted := by
  rintro s src dst seq _ ty p rfl
  have stranger (f : Frame) (h : f.dst ≠ s.cfg.nodeAddr ∧ f.dst ≠ broadcast) :
      Host.Outcome.next (nodeRxFrame f (s.answer .nothing)) = (.next (s.answer .nothing) : Answer) :=
    congrArg _ (nodeRxFrame_stranger h)
  refine ⟨fun h => ⟨stranger _ h, stranger _ h, stranger _ h, stranger _ h⟩, fun h => ?_⟩
  refine ⟨fun hb => ?_, ?_, fun hp => ?_, fun hd ha => ?_⟩
  · obtain ⟨e, ds, n, hemit, hdraws, hrx⟩ := nodeRxData_eq ⟨src, dst, seq, typeData, p⟩ (s.answer .nothing) hb
    exact ⟨e, ds, n, hemit, hdraws, congrArg _ ((nodeRxFrame_data h rfl).trans hrx)⟩
  · exact congrArg _ ((nodeRxFrame_typeAck h rfl).trans (if_neg (not_not.mpr rfl)))
  · exact congrArg _ ((nodeRxFrame_typeAck h rfl).trans (if_pos hp))
  · exact congrArg _ (nodeRxFrame_unknownType h hd ha)

end

section
/-!
The CRC Engine (spec/40_crc.md): the table and its division (O1), the checksum's recurrence (O2), its bit-serial form and
residue (O3), the CRC-32 remainder as a division (O4), its linearity (O5), and what the check accepts (O6, O7).
-/

namespace Sys2Proof.Machine

/-! ### What the operations answer -/

section
variable (s : State) (bytes : Bytes) (bits : Bits) (c : U16)

theorem exec_crc16Table : exec .crc16Table s = .next { s with crc16Table := crc16Build, result := .nothing } := rfl

theorem exec_crc16 : exec (.crc16 bytes) s = .next { s with result := .u16 (crc16Of s.crc16Table bytes) } := rfl

theorem exec_crc16Verify :
    exec (.crc16Verify bytes c) s = .next { s with result := .bool (decide (crc16Of s.crc16Table bytes = c)) } := rfl

theorem exec_crc32Rem : exec (.crc32Rem bits) s = .next { s with result := .nat (crc32RemOf bits) } := rfl

theorem exec_crc32Check :
    exec (.crc32Check bits) s = .next { s with result := .bool (decide (crc32RemOf bits = 0)) } := rfl

theorem exec_crc32Gen : exec (.crc32Gen bits) s = .next { s with result := .bits (crc32GenOf bits) } := rfl

end

/-! ### The bit-serial CRC-16 (R131, R134) -/

/-- Bit 15 of the register is the bit that the shift pushes out. -/
theorem serialShift_eq : serialShift = crc16Shift := by
  funext c
  rw [serialShift, crc16Shift, BitVec.msb_eq_getLsbD_last]
  rfl

theorem serialShift_iterate_eight : serialShift^[8] = crc16Shift8 := by
  rw [serialShift_eq]
  rfl

/-! ### The recurrence of CRC-16 (R133) -/

section
variable (table : Vector U16 256) (m : Bytes)

@[simp] theorem crc16Of_nil : crc16Of table [] = 0xFFFF := rfl

theorem crc16Of_append (b : Bytes) : crc16Of table (m ++ b) = b.foldl (crc16Step table) (crc16Of table m) :=
  List.foldl_append

theorem crc16Of_append_singleton (b : Byte) : crc16Of table (m ++ [b]) = crc16Step table (crc16Of table m) b :=
  crc16Of_append table m [b]

end

/-! ### The residue law (R134) -/

/-- Adding the register's own high byte at the top leaves its low byte. -/
theorem xor_high_byte (c : U16) : c ^^^ (((c >>> 8).setWidth 8).setWidth 16 <<< 8) = (c.setWidth 8).setWidth 16 := by
  apply BitVec.eq_of_getLsbD_eq
  intro i hi
  by_cases h8 : i < 8
  · simp [h8, hi]
  · have hback : 8 + (i - 8) = i := by omega
    have hlow : i - 8 < 8 := by omega
    simp [h8, hi, hback, hlow, show i - 8 < 16 by omega]

/-- The register's high byte empties its high half and moves the low byte up, where the low byte cancels it. -/
theorem crc16Step_own_bytes (c : U16) :
    crc16Step crc16TableConst (crc16Step crc16TableConst c ((c >>> 8).setWidth 8)) (c.setWidth 8) = 0 := by
  have hhigh : crc16Step crc16TableConst c ((c >>> 8).setWidth 8) = (c.setWidth 8).setWidth 16 <<< 8 := by
    rw [crc16Step_serial, xor_high_byte, crc16Shift8_low]
  rw [hhigh, crc16Step_serial, BitVec.xor_self]
  rfl

/-! ### The CRC-32 division (R137) -/

/-- A run of the loop that ends below the polynomial's length is a finished division. -/
theorem crc32Loop_reduces {fuel v : Nat} (h : bitlen (crc32Loop fuel v) ≤ 32) :
    ∃ n, n ≤ fuel ∧ Crc32Reduces n v (crc32Loop fuel v) := by
  induction fuel generalizing v with
  | zero => exact ⟨0, le_refl _, .done v (Nat.lt_succ_of_le h)⟩
  | succ fuel ih =>
    by_cases hv : 33 ≤ bitlen v
    · rw [crc32Loop, if_pos hv] at h ⊢
      obtain ⟨n, hn, hred⟩ := ih h
      exact ⟨n + 1, Nat.succ_le_succ hn, .pass n v _ hv hred⟩
    · rw [crc32Loop, if_neg hv]
      exact ⟨0, Nat.zero_le _, .done v (Nat.lt_of_not_le hv)⟩

theorem bitlen_crc32RemOf (bits : Bits) : bitlen (crc32RemOf bits) ≤ 32 :=
  (bitlen_le_iff _ 32).mpr (crc32RemOf_lt bits)

/-! ### The remainder as a function of the value (R138, R139) -/

/-- Swept from one height above all three strings, the remainder is linear in the value. -/
theorem crc32RemOf_xor {a b c : Bits} (h : bitsVal c = bitsVal a ^^^ bitsVal b) :
    crc32RemOf c = crc32RemOf a ^^^ crc32RemOf b := by
  have ha : a.length ≤ a.length + b.length + c.length := by omega
  have hb : b.length ≤ a.length + b.length + c.length := by omega
  have hc : c.length ≤ a.length + b.length + c.length := by omega
  rw [crc32RemOf_eq_sweep a ha, crc32RemOf_eq_sweep b hb, crc32RemOf_eq_sweep c hc, h, ← sweep_xor]
  simp only [← Nat.shiftLeft_eq, Nat.shiftLeft_xor_distrib]

theorem crc32RemOf_cons_false (bits : Bits) : crc32RemOf (false :: bits) = crc32RemOf bits := by
  have hval : bitsVal (false :: bits) = bitsVal bits := by simp
  rw [crc32RemOf_eq_sweep (false :: bits) (le_refl _), hval,
    crc32RemOf_eq_sweep bits (Nat.le_succ _), List.length_cons]

/-- A string that the generator does not fit into is a multiple of it only if it writes 0. -/
theorem crc32RemOf_eq_zero_iff_of_short {bits : Bits} (h : bits.length < 33) :
    crc32RemOf bits = 0 ↔ bits = List.replicate bits.length false := by
  have hlt : bitsVal bits < 2 ^ 32 :=
    Nat.lt_of_lt_of_le (bitsVal_lt bits) (Nat.pow_le_pow_right (by decide) (Nat.le_of_lt_succ h))
  rw [crc32RemOf_eq_zero_iff, ← bitsVal_eq_zero]
  exact ⟨fun hm => hm.eq_zero_of_lt hlt, fun hz => hz ▸ .zero⟩

/-- Data followed by its generated bits leaves no remainder (R140). -/
theorem crc32RemOf_append_crc32GenOf (d : Bits) : crc32RemOf (d ++ crc32GenOf d) = 0 :=
  (crc32RemOf_append_eq_zero_iff d (crc32GenOf_length d)).mpr (bitsVal_crc32GenOf d)

end Sys2Proof.Machine

open Sys2Proof Sys2Proof.Machine Sys2Proof.Laws

/-- Settles O3: byte by byte the table form is eight serial shifts, and the register's own two bytes empty it. -/
theorem crc16TableFormIsSerialAndResidueIsZero : Obligations.Crc16TableFormIsSerialAndResidueIsZero := by
  intro m
  constructor
  · have hstep : crc16Step crc16TableConst =
        fun (c : U16) (b : Byte) => serialShift^[8] (c ^^^ (b.setWidth 16 <<< 8)) := by
      funext c b
      rw [serialShift_iterate_eight, crc16Step_serial]
    rw [← hstep]
    rfl
  · rw [crc16Of_append]
    exact crc16Step_own_bytes (crc16Of crc16TableConst m)

/-- Settles O4: the loop's result fits 32 bits, so its run is a finished division. -/
theorem crc32RemIsTheDivisionRemainder : Obligations.Crc32RemIsTheDivisionRemainder := by
  intro s bits
  obtain ⟨n, hn, hred⟩ := crc32Loop_reduces (bitlen_crc32RemOf bits)
  refine ⟨EncodeSelects.crc32Rem bits, crc32RemOf bits, n, exec_crc32Rem s bits, hred, hn, bitlen_crc32RemOf bits, ?_⟩
  rw [exec_crc32Rem, crc32RemOf_cons_false]

/-- Settles O5: by the linearity of the sweep. -/
theorem crc32RemIsLinear : Obligations.Crc32RemIsLinear := fun _ _ _ => crc32RemOf_xor

/-- Settles O6: exactly the multiples leave no remainder, and below 33 bits only 0 is one. -/
theorem crc32CheckAcceptsExactlyTheMultiples : Obligations.Crc32CheckAcceptsExactlyTheMultiples := fun s bits =>
  ⟨EncodeSelects.crc32Check bits, exec_crc32Check s bits, crc32RemOf_eq_zero_iff bits, crc32RemOf_eq_zero_iff_of_short⟩

/-- Settles O7: the generated bits write the remainder, which is what the check asks of them. -/
theorem crc32GeneratedBitsAlwaysCheck : Obligations.Crc32GeneratedBitsAlwaysCheck := by
  intro s d
  refine ⟨EncodeSelects.crc32Gen d, crc32GenOf d, exec_crc32Gen s d, crc32GenOf_length d, bitsVal_crc32GenOf d, ?_⟩
  rw [exec_crc32Check, decide_eq_true (crc32RemOf_append_crc32GenOf d)]

/-- Settles O1: the loop writes the constants of R132, and each of them is the division of its leading byte. -/
theorem crc16TableHoldsTheDivisionOfEachByte : Obligations.Crc16TableHoldsTheDivisionOfEachByte := by
  refine ⟨EncodeSelects.crc16Table, fun s => ⟨crc16Build, exec_crc16Table s, fun i => ?_, crc16Build_eq⟩⟩
  rw [crc16Build_eq, serialShift_iterate_eight]
  exact peerGet_crc16TableConst i

/-- Settles O2: the checksum is a fold over the bytes, so one more byte is one more step of R133. -/
theorem crc16FollowsTheTableRecurrence : Obligations.Crc16FollowsTheTableRecurrence := fun s bytes c =>
  ⟨EncodeSelects.crc16 bytes, EncodeSelects.crc16Verify bytes c, exec_crc16 s bytes, exec_crc16Verify s bytes c,
    crc16Of_nil s.crc16Table, crc16Of_append_singleton s.crc16Table bytes⟩

end

section
/-!
The Frame Codec (spec/41_frame_codec.md): an oversized payload (O9), the judgement of the first candidate (O10), the
round trip of profile A (O11), the sync words that resynchronisation keeps (O12), and profile B's layout, check and
round trip (O13, O14, O16).
-/

namespace Sys2Proof.Machine

/-! ### Reading past leading bytes (R14) -/

section
variable (pre rest : Bytes)

theorem memByte_append_right (k : Nat) : memByte (pre ++ rest) (pre.length + k) = memByte rest k := by
  rw [memByte, memByte, List.getD_append_right _ _ _ _ (Nat.le_add_right _ _), Nat.add_sub_cancel_left]

theorem memRead_append_right (k n : Nat) : memRead (pre ++ rest) (pre.length + k) n = memRead rest k n := by
  simp [memRead]

end

/-- The two CRC bytes at the end of a frame read back as the CRC (R100). -/
theorem memByte_crcBytes (p : Bytes) (c : U16) :
    memByte (p ++ crcBytes c) p.length ++ memByte (p ++ crcBytes c) (p.length + 1) = c := by
  have hhigh : memByte (p ++ crcBytes c) p.length = c.extractLsb' 8 8 := memByte_append_right p (crcBytes c) 0
  have hlow : memByte (p ++ crcBytes c) (p.length + 1) = c.extractLsb' 0 8 := memByte_append_right p (crcBytes c) 1
  rw [hhigh, hlow]
  exact (BitVec.extractLsb'_append_extractLsb'_eq_extractLsb' (w := 16) rfl).trans BitVec.extractLsb'_eq_self

/-! ### Where a sync word stands (R13) -/

section
variable {buf a b : Bytes} {s0 s1 : Byte} {i j d : Nat}

/-- Bytes that follow do not touch a place that lies whole before them. -/
theorem syncAt_append_left (h : j + 1 < a.length) : SyncAt (a ++ b) s0 s1 j ↔ SyncAt a s0 s1 j := by
  rw [SyncAt, SyncAt, List.getElem?_append_left h, List.getElem?_append_left (by omega)]

theorem syncAt_drop : SyncAt (buf.drop d) s0 s1 j ↔ SyncAt buf s0 s1 (j + d) := by
  rw [SyncAt, SyncAt, List.getElem?_drop, List.getElem?_drop, Nat.add_comm d, Nat.add_comm d, Nat.add_right_comm]

theorem SyncAt.lt_length (h : SyncAt buf s0 s1 j) : j + 1 < buf.length := (List.getElem?_eq_some_iff.mp h.2).1

/-- The first sync word stays the first whatever bytes follow. -/
theorem FirstSyncAt.append (h : FirstSyncAt a s0 s1 i) (b : Bytes) : FirstSyncAt (a ++ b) s0 s1 i := by
  obtain ⟨hat, hbefore⟩ := h
  have hi := hat.lt_length
  exact ⟨(syncAt_append_left hi).mpr hat,
    fun j hj hsync => hbefore j hj ((syncAt_append_left (by omega)).mp hsync)⟩

/-! ### The search for it (R13, R156) -/

theorem find2_eq_none_iff : find2 buf s0 s1 = none ↔ ∀ j, ¬ SyncAt buf s0 s1 j := by
  refine ⟨find2_none, fun h => ?_⟩
  cases e : find2 buf s0 s1 with
  | none => rfl
  | some i =>
    obtain ⟨-, h0, h1, -⟩ := find2_some e
    exact absurd ⟨h0, h1⟩ (h i)

theorem find2_eq_some_iff : find2 buf s0 s1 = some i ↔ FirstSyncAt buf s0 s1 i := by
  constructor
  · intro h
    obtain ⟨-, h0, h1, hbefore⟩ := find2_some h
    exact ⟨⟨h0, h1⟩, hbefore⟩
  · rintro ⟨hat, hbefore⟩
    cases e : find2 buf s0 s1 with
    | none => exact absurd hat (find2_none e i)
    | some i' =>
      obtain ⟨-, h0, h1, hbefore'⟩ := find2_some e
      rcases Nat.lt_trichotomy i i' with hlt | rfl | hgt
      · exact absurd hat (hbefore' i hlt)
      · rfl
      · exact absurd ⟨h0, h1⟩ (hbefore i' hgt)

section
variable {cfg : Cfg} (hsync : cfg.syncWord = [s0, s1])
include hsync

theorem findSync_eq_find2 (buf : Bytes) : findSync cfg buf = find2 buf s0 s1 := by
  rw [findSync, hsync]

theorem findSync_eq_none_iff : findSync cfg buf = none ↔ ∀ j, ¬ SyncAt buf s0 s1 j := by
  rw [findSync_eq_find2 hsync, find2_eq_none_iff]

theorem findSync_eq_some_iff : findSync cfg buf = some i ↔ FirstSyncAt buf s0 s1 i := by
  rw [findSync_eq_find2 hsync, find2_eq_some_iff]

end

end

/-! ### The outcome of FRAME.DECODE (R155, R156) -/

section
variable {cfg : Cfg} {table : Vector U16 256} {buf : Bytes} {i l : Nat}

/-- The frame that a candidate with sync index i and `len` byte l spells (R156). -/
def candidateFrame (buf : Bytes) (i l : Nat) : Frame :=
  ⟨memByte buf (i + 2), memByte buf (i + 3), memByte buf (i + 4), memByte buf (i + 5), memRead buf (i + 7) l⟩

/-- The CRC of a candidate agrees with its last two bytes (R156). -/
def CandidateAgrees (table : Vector U16 256) (buf : Bytes) (i l : Nat) : Prop :=
  crc16Of table (memRead buf (i + 2) (5 + l)) = memByte buf (i + 7 + l) ++ memByte buf (i + 8 + l)

/-- How many bytes a rejected candidate gives up (R158). -/
def rejectCount (cfg : Cfg) (i l : Nat) : Nat := if cfg.resyncMode = .byte then i + 1 else i + 9 + l

theorem checkCandidate_agrees (h : CandidateAgrees table buf i l) :
    checkCandidate cfg table buf i l = .frame (candidateFrame buf i l) (i + 9 + l) := if_pos h

theorem checkCandidate_disagrees (h : ¬ CandidateAgrees table buf i l) :
    checkCandidate cfg table buf i l = .rejected (rejectCount cfg i l) := by
  refine (if_neg h).trans ?_
  cases hmode : cfg.resyncMode <;> simp [rejectCount, hmode]

theorem decodeOutcome_noSync (h : findSync cfg buf = none) : decodeOutcome cfg table buf = .noSync := by
  rw [decodeOutcome, h]

section
variable (h : findSync cfg buf = some i)
include h

/-- A candidate is judged once its header and the bytes its `len` byte announces are there; the header's own test is
covered by the longer one. -/
theorem decodeOutcome_of_findSync : decodeOutcome cfg table buf =
    if buf.length < i + 9 + (memByte buf (i + 6)).toNat then .incomplete
    else checkCandidate cfg table buf i (memByte buf (i + 6)).toNat := by
  rw [decodeOutcome, h]
  by_cases hheader : buf.length < i + 9
  · rw [if_pos (Nat.lt_add_right _ hheader)]
    exact if_pos hheader
  · exact if_neg hheader

theorem decodeOutcome_incomplete (hlen : buf.length < i + 9 + (memByte buf (i + 6)).toNat) :
    decodeOutcome cfg table buf = .incomplete := by
  rw [decodeOutcome_of_findSync h, if_pos hlen]

theorem decodeOutcome_whole (hlen : i + 9 + (memByte buf (i + 6)).toNat ≤ buf.length) :
    decodeOutcome cfg table buf = checkCandidate cfg table buf i (memByte buf (i + 6)).toNat := by
  rw [decodeOutcome_of_findSync h, if_neg (Nat.not_lt.mpr hlen)]

end

/-- A rejection in BYTE mode gives up the candidate's first byte alone (R158). -/
theorem decodeOutcome_rejected_byte (hmode : cfg.resyncMode = .byte) {n : Nat}
    (h : decodeOutcome cfg table buf = .rejected n) : ∃ i, findSync cfg buf = some i ∧ n = i + 1 := by
  cases e : findSync cfg buf with
  | none => rw [decodeOutcome_noSync e] at h; cases h
  | some i =>
    refine ⟨i, rfl, ?_⟩
    rw [decodeOutcome_of_findSync e] at h
    split at h
    · cases h
    by_cases hcrc : CandidateAgrees table buf i (memByte buf (i + 6)).toNat
    · rw [checkCandidate_agrees hcrc] at h; cases h
    · rw [checkCandidate_disagrees hcrc, rejectCount, if_pos hmode] at h
      exact (DecodeOutcome.rejected.inj h).symm

end

/-! ### The meanings of the profile A operations -/

section
variable {s : State} {buf : Bytes}

theorem exec_frameDecode : exec (.frameDecode buf) s =
    .next { noteOutcome (decodeOutcome s.cfg s.crc16Table buf) s with
      result := .decoded (decodeOutcome s.cfg s.crc16Table buf) } := rfl

theorem exec_frameDecode_noSync (h : decodeOutcome s.cfg s.crc16Table buf = .noSync) :
    exec (.frameDecode buf) s = .next { s with result := .decoded .noSync } := by
  rw [exec_frameDecode, h]
  rfl

theorem exec_frameDecode_incomplete (h : decodeOutcome s.cfg s.crc16Table buf = .incomplete) :
    exec (.frameDecode buf) s = .next { s with result := .decoded .incomplete } := by
  rw [exec_frameDecode, h]
  rfl

theorem exec_frameDecode_frame {f : Frame} {n : Nat} (h : decodeOutcome s.cfg s.crc16Table buf = .frame f n) :
    exec (.frameDecode buf) s = .next { s with result := .decoded (.frame f n) } := by
  rw [exec_frameDecode, h]
  rfl

theorem exec_frameDecode_rejected {n : Nat} (h : decodeOutcome s.cfg s.crc16Table buf = .rejected n) :
    exec (.frameDecode buf) s = .next { s with
      cnt := { s.cnt with crcFail := s.cnt.crcFail + 1 }
      trace := s.trace ++ [.crcMismatch n]
      result := .decoded (.rejected n) } := by
  rw [exec_frameDecode, h]
  rfl

theorem execFrameEncode_long {src dst seq ty : Byte} {p : Bytes} (h : 255 < p.length) :
    execFrameEncode src dst seq ty p s = .next (raise .payloadTooLong s) := by
  rw [execFrameEncode, encodeFrame_long h]

end

/-! ### Decoding what was encoded (R161) -/

section
variable (table : Vector U16 256) (pre rest : Bytes) (l : Nat)

theorem candidateFrame_append_right :
    candidateFrame (pre ++ rest) pre.length l = candidateFrame rest 0 l := by
  simp only [candidateFrame, memByte_append_right, memRead_append_right, Nat.zero_add]

theorem candidateAgrees_append_right :
    CandidateAgrees table (pre ++ rest) pre.length l ↔ CandidateAgrees table rest 0 l := by
  simp only [CandidateAgrees, Nat.add_assoc, memByte_append_right, memRead_append_right, Nat.zero_add]

end

/-- A frame on the air from its sync word on: header, payload and the CRC c (R91). -/
def syncedBytes (s0 s1 : Byte) (f : Frame) (c : U16) : Bytes :=
  [s0, s1] ++ frameBody f.src f.dst f.seq f.ty f.payload ++ crcBytes c

section
variable (s0 s1 : Byte) (f : Frame) (c : U16)

theorem frameBytes_eq_append_syncedBytes {cfg : Cfg} (hsync : cfg.syncWord = [s0, s1]) (table : Vector U16 256) :
    frameBytes cfg table f.src f.dst f.seq f.ty f.payload =
      cfg.preamble ++ syncedBytes s0 s1 f (crc16Of table (frameBody f.src f.dst f.seq f.ty f.payload)) := by
  simp only [frameBytes, syncedBytes, hsync, List.append_assoc]

theorem syncedBytes_length : (syncedBytes s0 s1 f c).length = 9 + f.payload.length := by
  simp only [syncedBytes, frameBody, crcBytes, List.length_append, List.length_cons, List.length_nil]
  omega

theorem memByte_syncedBytes_len (hp : f.payload.length ≤ 255) :
    (memByte (syncedBytes s0 s1 f c) 6).toNat = f.payload.length :=
  Nat.mod_eq_of_lt (Nat.lt_succ_of_le hp)

theorem candidateFrame_syncedBytes : candidateFrame (syncedBytes s0 s1 f c) 0 f.payload.length = f := by
  have hpayload : memRead (syncedBytes s0 s1 f c) 7 f.payload.length = f.payload := List.take_left
  rw [candidateFrame, Nat.zero_add, hpayload]
  rfl

theorem candidateAgrees_syncedBytes (table : Vector U16 256) :
    CandidateAgrees table
      (syncedBytes s0 s1 f (crc16Of table (frameBody f.src f.dst f.seq f.ty f.payload))) 0 f.payload.length := by
  have hlen : (frameBody f.src f.dst f.seq f.ty f.payload).length = 5 + f.payload.length :=
    Nat.add_comm f.payload.length 5
  have hbody (c : U16) : memRead (syncedBytes s0 s1 f c) 2 (5 + f.payload.length) =
      frameBody f.src f.dst f.seq f.ty f.payload := hlen ▸ List.take_left
  simp only [CandidateAgrees, Nat.zero_add, hbody, Nat.add_comm 7, Nat.add_comm 8]
  exact (memByte_crcBytes f.payload _).symm

end

/-- Under R9 the decoder finds the frame's own sync word, reads the header and payload behind it and agrees on the CRC,
whatever the type byte is. -/
theorem decodeOutcome_frameBytes {cfg : Cfg} (hanchor : SyncAnchored cfg) (table : Vector U16 256) (f : Frame)
    (hp : f.payload.length ≤ 255) :
    decodeOutcome cfg table (frameBytes cfg table f.src f.dst f.seq f.ty f.payload) =
      .frame f (cfg.preamble.length + 9 + f.payload.length) := by
  obtain ⟨s0, s1, hsync, hfirst⟩ := hanchor
  have hfind : findSync cfg (frameBytes cfg table f.src f.dst f.seq f.ty f.payload) = some cfg.preamble.length := by
    rw [findSync_eq_some_iff hsync, frameBytes, List.append_assoc (cfg.preamble ++ cfg.syncWord)]
    exact hfirst.append _
  rw [frameBytes_eq_append_syncedBytes s0 s1 f hsync] at hfind ⊢
  generalize hc : crc16Of table (frameBody f.src f.dst f.seq f.ty f.payload) = c at hfind ⊢
  have hagrees : CandidateAgrees table (syncedBytes s0 s1 f c) 0 f.payload.length :=
    hc ▸ candidateAgrees_syncedBytes s0 s1 f table
  have hlen :
      (memByte (cfg.preamble ++ syncedBytes s0 s1 f c) (cfg.preamble.length + 6)).toNat = f.payload.length := by
    rw [memByte_append_right, memByte_syncedBytes_len s0 s1 f c hp]
  have hwhole : (cfg.preamble ++ syncedBytes s0 s1 f c).length = cfg.preamble.length + 9 + f.payload.length := by
    rw [List.length_append, syncedBytes_length, Nat.add_assoc]
  rw [decodeOutcome_whole hfind (by rw [hlen, hwhole]), hlen,
    checkCandidate_agrees ((candidateAgrees_append_right table _ _ _).mpr hagrees),
    candidateFrame_append_right, candidateFrame_syncedBytes]

/-! ### Profile B (R105, R166, R168, R169) -/

section
variable {n : Nat} {bits : Bits}

theorem bframeOutcome_wrong_length (h : bits.length ≠ 40 + n) : bframeOutcome n bits = .bad := if_pos h

theorem bframeOutcome_remainder (hl : bits.length = 40 + n) (hc : crc32RemOf bits ≠ 0) :
    bframeOutcome n bits = .bad := by
  simp [bframeOutcome, hl, crc32CheckOf, hc]

theorem bframeOutcome_good (hl : bits.length = 40 + n) (hc : crc32RemOf bits = 0) :
    bframeOutcome n bits = .good (bitsVal (bits.take 2)) (bitsVal ((bits.drop 2).take 6)) ((bits.drop 8).take n) := by
  simp [bframeOutcome, hl, crc32CheckOf, hc]

end

section
variable (addr seq : Nat) (chunk : Bits)

theorem bframeBits_length : (bframeBits addr seq chunk).length = 40 + chunk.length := by
  simp only [bframeBits, List.length_append, binW_length, crc32GenOf_length]
  omega

/-- The check passes on generated bits, and the fields stand where they were written (R169). -/
theorem bframeOutcome_bframeBits (ha : addr ≤ 3) (hq : seq ≤ 63) :
    bframeOutcome chunk.length (bframeBits addr seq chunk) = .good addr seq chunk := by
  have hcrc : crc32RemOf (bframeBits addr seq chunk) = 0 := crc32RemOf_append_crc32GenOf _
  obtain ⟨haddr, hseq, hchunk, -⟩ :=
    bframe_parts chunk (crc32GenOf (binW 2 addr ++ binW 6 seq ++ chunk)) (binW_length 2 addr) (binW_length 6 seq)
  rw [bframeOutcome_good (bframeBits_length addr seq chunk) hcrc, bframeBits, haddr, hseq, hchunk,
    bitsVal_binW_of_lt (Nat.lt_succ_of_le ha), bitsVal_binW_of_lt (Nat.lt_succ_of_le hq)]

end

theorem crc32RemOf_zeros (n : Nat) : crc32RemOf (List.replicate n false) = 0 := by
  rw [crc32RemOf_eq_zero_iff, bitsVal_zeros]
  exact .zero

/-- Silence is a well-checked frame (R169). -/
theorem bframeOutcome_zeros (n : Nat) :
    bframeOutcome n (List.replicate (40 + n) false) = .good 0 0 (List.replicate n false) := by
  have hchunk : n ≤ 40 + n - 8 := by omega
  rw [bframeOutcome_good List.length_replicate (crc32RemOf_zeros _)]
  simp [List.take_replicate, List.drop_replicate, Nat.min_eq_left hchunk]

section
variable {s : State} (hm : s.mode ≠ .unconfigured) (hp : s.cfg.profileBEnable = true)
include hm hp

theorem exec_bframeEncode_inRange {addr seq : Nat} {chunk : Bits}
    (h : addr ≤ 3 ∧ seq ≤ 63 ∧ chunk.length = s.cfg.chunkBits) :
    exec (.bframeEncode addr seq chunk) s = .next { s with result := .bits (bframeBits addr seq chunk) } :=
  (profileBAccepted_enabled hm hp _).trans (if_pos h)

theorem exec_bframeEncode_outOfRange {addr seq : Nat} {chunk : Bits}
    (h : ¬ (addr ≤ 3 ∧ seq ≤ 63 ∧ chunk.length = s.cfg.chunkBits)) :
    exec (.bframeEncode addr seq chunk) s = .refused .operandOutOfRange :=
  (profileBAccepted_enabled hm hp _).trans (if_neg h)

theorem exec_bframeCheck_enabled (bits : Bits) :
    exec (.bframeCheck bits) s = .next { s with result := .bframe (bframeOutcome s.cfg.chunkBits bits) } :=
  profileBAccepted_enabled hm hp _

end

/-! ### The trimming of NODE.RX (R163, R259) -/

/-- A buffer without a sync word trimmed to its last byte keeps every sync word that later bytes complete, moved by the
number of bytes dropped. -/
theorem syncAt_keepLastByte {buf : Bytes} {s0 s1 : Byte} (h : ∀ j, ¬ SyncAt buf s0 s1 j) (later : Bytes) (j : Nat) :
    SyncAt (buf ++ later) s0 s1 j ↔ ∃ k, j = k + discardCount buf ∧ SyncAt (keepLastByte buf ++ later) s0 s1 k := by
  have hd := discardCount_eq buf
  have htrim : keepLastByte buf ++ later = (buf ++ later).drop (discardCount buf) := by
    rw [keepLastByte_eq_drop, List.drop_append_of_le_length (by omega)]
  simp only [htrim, syncAt_drop]
  constructor
  · intro hsync
    have hj : discardCount buf ≤ j := by
      by_contra hlt
      exact h j ((syncAt_append_left (by omega)).mp hsync)
    have hk : j = j - discardCount buf + discardCount buf := (Nat.sub_add_cancel hj).symm
    exact ⟨_, hk, hk ▸ hsync⟩
  · rintro ⟨k, rfl, hsync⟩
    exact hsync

theorem exec_nodeRx_noSync_rxBuf {s t : State} (h : findSync s.cfg (s.rxBuf ++ s.rxIn) = none)
    (he : exec .nodeRx s = .next t) : t.rxBuf = keepLastByte (s.rxBuf ++ s.rxIn) := by
  obtain rfl := Host.Outcome.next.inj he
  exact congrArg State.rxBuf (nodeRx_noSync (s := s.answer .nothing) h)

end Sys2Proof.Machine

open Sys2Proof Sys2Proof.Machine Sys2Proof.Laws

/-- Settles O11: the decoder's outcome on an encoded frame, and the encoder's answer on a legal request. -/
theorem frameDecodeInvertsEncode : Obligations.FrameDecodeInvertsEncode := fun s f hanchor hp =>
  ⟨exec_frameDecode_frame (decodeOutcome_frameBytes hanchor s.crc16Table f hp), execFrameEncode_legal hp⟩

/-- Settles O16: the check on generated bits, and on zeros. -/
theorem bframeCheckInvertsEncode : Obligations.BframeCheckInvertsEncode := by
  intro s addr seq chunk hm hp ha hq hl
  refine ⟨⟨bframeBits addr seq chunk, exec_bframeEncode_inRange hm hp ⟨ha, hq, hl⟩, ?_⟩, ?_⟩
  · rw [exec_bframeCheck_enabled hm hp, ← hl, bframeOutcome_bframeBits addr seq chunk ha hq]
  · rw [exec_bframeCheck_enabled hm hp, bframeOutcome_zeros]

/-- Settles O10: the search finds the first sync word, and each outcome has its equation. -/
theorem frameDecodeJudgesTheFirstCandidate : Obligations.FrameDecodeJudgesTheFirstCandidate := by
  intro s buf s0 s1 hsync
  refine ⟨EncodeSelects.frameDecode buf, fun hnone => ?_, fun i hfirst => ?_⟩
  · exact exec_frameDecode_noSync (decodeOutcome_noSync ((findSync_eq_none_iff hsync).mpr hnone))
  have hfind : findSync s.cfg buf = some i := (findSync_eq_some_iff hsync).mpr hfirst
  refine ⟨fun hheader => ?_, ?_⟩
  · exact exec_frameDecode_incomplete (decodeOutcome_incomplete hfind (Nat.lt_add_right _ hheader))
  rintro - len rfl
  refine ⟨fun hpart => exec_frameDecode_incomplete (decodeOutcome_incomplete hfind hpart), ?_⟩
  rintro hwhole rx rfl
  have houtcome := decodeOutcome_whole (table := s.crc16Table) hfind hwhole
  exact ⟨fun hcrc => exec_frameDecode_frame (houtcome.trans (checkCandidate_agrees hcrc)),
    fun hcrc => exec_frameDecode_rejected (houtcome.trans (checkCandidate_disagrees hcrc))⟩

/-- Settles O12: a rejection gives up one byte at the first sync word, and the trimming only bytes that no later byte
can complete to a sync word. -/
theorem resynchronisationLosesNoSyncWord : Obligations.ResynchronisationLosesNoSyncWord := by
  intro s t s0 s1 hsync
  refine ⟨fun hmode buf n he hresult => ?_, fun hnone he later j => ?_⟩
  · obtain rfl := Host.Outcome.next.inj he
    obtain ⟨i, hfind, rfl⟩ := decodeOutcome_rejected_byte hmode (Response.decoded.inj hresult)
    obtain ⟨hat, hbefore⟩ := (findSync_eq_some_iff hsync).mp hfind
    refine ⟨hat, Nat.le_add_left 1 i, fun j hj => ?_⟩
    have hij : i ≤ j := Nat.le_of_not_lt fun hlt => hbefore j hlt hj
    exact (Nat.eq_or_lt_of_le hij).imp_left Eq.symm
  · rw [exec_nodeRx_noSync_rxBuf ((findSync_eq_none_iff hsync).mpr hnone) he]
    exact syncAt_keepLastByte hnone later j

/-- Settles O9: the length test comes first. -/
theorem frameEncodeRejectsOversizedPayloads : Obligations.FrameEncodeRejectsOversizedPayloads := by
  intro s src dst seq ty p h
  exact (execFrameEncode_long h).trans (congrArg _ (raise_payloadTooLong s))

/-- Settles O13: the two fields written in two and six bits, and the guards of the operation in turn. -/
theorem bframeEncodeWritesTheLayout : Obligations.BframeEncodeWritesTheLayout := by
  intro s addr seq chunk
  refine ⟨EncodeSelects.bframeEncode addr seq chunk, fun hm hp ha hq hl => ?_,
    fun hm hp h => exec_bframeEncode_outOfRange hm hp h, fun hm hp => profileBAccepted_disabled hm hp _,
    fun hm => profileBAccepted_unconfigured hm _⟩
  refine ⟨binW 2 addr, binW 6 seq, _, binW_length 2 addr, bitsVal_binW_of_lt (Nat.lt_succ_of_le ha),
    binW_length 6 seq, bitsVal_binW_of_lt (Nat.lt_succ_of_le hq), exec_crc32Gen s _, ?_,
    exec_bframeEncode_inRange hm hp ⟨ha, hq, hl⟩⟩
  exact hl ▸ bframeBits_length addr seq chunk

/-- Settles O14: the three outcomes of the check, and the guards of the operation in turn. -/
theorem bframeCheckSplitsTheFields : Obligations.BframeCheckSplitsTheFields := by
  intro s bits
  refine ⟨EncodeSelects.bframeCheck bits, fun hm hp => ?_, fun hm hp => profileBAccepted_disabled hm hp _,
    fun hm => profileBAccepted_unconfigured hm _⟩
  rw [exec_bframeCheck_enabled hm hp]
  exact ⟨fun hl => by rw [bframeOutcome_wrong_length hl], fun hl hc => by rw [bframeOutcome_remainder hl hc],
    fun hl hc => by rw [bframeOutcome_good hl hc]⟩

end

section
/-!
Sequencing and windows (spec/42_sequencing.md): the transmit and receive counters (O17, O19), the distance and its sign
test (O18), the window's operations (O20, O21, O23), and the agreement of the window test with the sign test (O22).
-/

namespace Sys2Proof.Machine

/-! ### What the operations answer -/

section
variable (s : State) (d : Addr) (a b n : Seq)

theorem exec_seqAlloc :
    exec (.seqAlloc d) s =
      .next { s with
        nextTxSeq := peerSet s.nextTxSeq d (peerGet s.nextTxSeq d + 1), result := .seq (peerGet s.nextTxSeq d) } :=
  rfl

theorem exec_seqDist : exec (.seqDist a b) s = .next { s with result := .seq (a - b) } := rfl

theorem exec_seqNewer : exec (.seqNewer a b) s = .next { s with result := .bool (seqNewer a b) } := rfl

/-- The same answer by the distance (R184). -/
theorem exec_seqNewer_dist :
    exec (.seqNewer a b) s = .next { s with result := .bool (decide (1 ≤ (a - b).toNat ∧ (a - b).toNat ≤ 127)) } := by
  rw [exec_seqNewer, seqNewer_eq]

theorem exec_winCover :
    exec (.winCover d n) s = .next { s with result := .covered (coverOf (peerGet s.gbn d).window n) } := rfl

theorem exec_winClear :
    exec (.winClear d) s =
      .next { s with
        gbn := peerSet s.gbn d { peerGet s.gbn d with window := [] }
        result := .entries (peerGet s.gbn d).window } := rfl

end

section
variable {s : State} {d : Addr}

theorem exec_seqAccept_inOrder {n : Seq} (h : n = peerGet s.expectedRxSeq d) :
    exec (.seqAccept d n) s =
      .next { s with expectedRxSeq := peerSet s.expectedRxSeq d (n + 1), result := .accepted .inOrder n } := by
  show execSeqAccept d n s = _
  rw [execSeqAccept, seqAccept_inOrder h]
  rfl

theorem exec_seqAccept_notInOrder {n : Seq} (h : n ≠ peerGet s.expectedRxSeq d) :
    exec (.seqAccept d n) s =
      .next { s with result := .accepted .notInOrder (peerGet s.expectedRxSeq d - 1) } := by
  show execSeqAccept d n s = _
  rw [execSeqAccept, seqAccept_notInOrder h]
  rfl

section
variable (n : Seq) (frame : Bytes) (last : Bool)

theorem exec_winPush_room (h : (peerGet s.gbn d).window.length < s.cfg.windowSize) :
    exec (.winPush d n frame last) s =
      .next { s with
        gbn := peerSet s.gbn d
          { peerGet s.gbn d with window := (peerGet s.gbn d).window ++ [⟨n, frame, false, last⟩] }
        result := .nothing } := if_pos (decide_eq_true h)

theorem exec_winPush_full (h : s.cfg.windowSize ≤ (peerGet s.gbn d).window.length) :
    exec (.winPush d n frame last) s = .refused .windowFull :=
  if_neg fun hroom => Nat.not_lt.mpr h (of_decide_eq_true hroom)

end

theorem exec_winSlide_inRange {k : Nat} (h : 1 ≤ k ∧ k ≤ (peerGet s.gbn d).window.length) :
    exec (.winSlide d k) s =
      .next { s with
        gbn := peerSet s.gbn d { peerGet s.gbn d with window := (peerGet s.gbn d).window.drop k }
        result := .entries ((peerGet s.gbn d).window.take k) } := if_pos h

theorem exec_winSlide_outOfRange {k : Nat} (h : ¬ (1 ≤ k ∧ k ≤ (peerGet s.gbn d).window.length)) :
    exec (.winSlide d k) s = .refused .slideOutOfRange := if_neg h

end

/-! ### Numbers modulo 256 (R183, R184) -/

section
variable (a b : Seq)

theorem seq_succ_toNat : (a + 1).toNat = (a.toNat + 1) % 256 := BitVec.toNat_add a 1

theorem seq_pred_toNat : (a - 1).toNat = (a.toNat + 255) % 256 := by
  rw [BitVec.toNat_sub, Nat.add_comm]
  rfl

theorem seqDist_toNat :
    (a - b).toNat = if b.toNat ≤ a.toNat then a.toNat - b.toNat else a.toNat + 256 - b.toNat := by
  have ha := a.isLt
  have hb := b.isLt
  rw [BitVec.toNat_sub]
  split <;> omega

/-- The two distances between different numbers make up the full circle (R183). -/
theorem seqDist_swap (h : 1 ≤ (a - b).toNat) : (b - a).toNat = 256 - (a - b).toNat := by
  have ha := a.isLt
  have hb := b.isLt
  rw [seqDist_toNat] at h ⊢
  rw [seqDist_toNat]
  split_ifs at h ⊢ <;> omega

/-- Distance 0 is the number itself, so with R184's distances 1 to 127 this is the lower half of the circle. -/
theorem eq_or_seqNewer_iff : (a = b ∨ seqNewer a b = true) ↔ (a - b).toNat ≤ 127 := by
  have hzero : a = b ↔ (a - b).toNat = 0 := by
    rw [seqDist_toNat, ← BitVec.toNat_inj]
    have hb := b.isLt
    split <;> omega
  rw [seqNewer_eq, decide_eq_true_eq, hzero]
  omega

/-- `SEQ.NEWER` answers true exactly when the sign test holds, which its response tells. -/
theorem exec_seqNewer_true_iff (s : State) :
    exec (.seqNewer a b) s = .next { s with result := .bool true } ↔ seqNewer a b = true := by
  rw [exec_seqNewer]
  constructor
  · intro h
    exact Response.bool.inj (congrArg State.result (Host.Outcome.next.inj h))
  · intro h
    rw [h]

end

/-! ### Windows of consecutive numbers (R31, R193) -/

/-- The entry of index k stands k numbers after the base, and no other number does (R31). -/
theorem Contiguous.seq_eq_iff {base : WinEntry} {w : List WinEntry} (h : Contiguous (base :: w)) {k : Nat}
    (hk : k < (base :: w).length) (hlen : (base :: w).length ≤ 256) (n : Seq) :
    (base :: w)[k].seq = n ↔ (n - base.seq).toNat = k := by
  have hk256 : (BitVec.ofNat 8 k).toNat = k := Nat.mod_eq_of_lt (by omega)
  rw [h base rfl k hk]
  constructor
  · rintro rfl
    rw [BitVec.add_comm, BitVec.add_sub_cancel, hk256]
  · intro hd
    rw [← hd, BitVec.ofNat_toNat, BitVec.setWidth_eq, BitVec.add_comm, BitVec.sub_add_cancel]

theorem coverOf_cons_eq_some_iff {base : WinEntry} {w : List WinEntry} {n : Seq} {k : Nat} :
    coverOf (base :: w) n = some k ↔ (n - base.seq).toNat < (base :: w).length ∧ (n - base.seq).toNat + 1 = k := by
  rw [coverOf_cons]
  simp

theorem coverOf_cons_ne_none_iff {base : WinEntry} {w : List WinEntry} {n : Seq} :
    coverOf (base :: w) n ≠ none ↔ (n - base.seq).toNat < (base :: w).length := by
  rw [coverOf_cons]
  simp

/-- `WIN.COVER` is membership: it counts k exactly when the k-th entry carries the number (R190). -/
theorem Contiguous.coverOf_eq_some_iff {w : List WinEntry} (h : Contiguous w) (hlen : w.length ≤ 256) {n : Seq}
    {k : Nat} : coverOf w n = some k ↔ 1 ≤ k ∧ ∃ e, w[k - 1]? = some e ∧ e.seq = n := by
  cases w with
  | nil => simp
  | cons base w =>
    rw [coverOf_cons_eq_some_iff]
    constructor
    · rintro ⟨hd, rfl⟩
      exact ⟨Nat.le_add_left 1 _, _, List.getElem?_eq_getElem hd, (h.seq_eq_iff hd hlen n).mpr rfl⟩
    · rintro ⟨hk, e, he, hseq⟩
      obtain ⟨hlt, rfl⟩ := List.getElem?_eq_some_iff.mp he
      have hd := (h.seq_eq_iff hlt hlen n).mp hseq
      omega

/-- The newest entry stands at the window's length less one from the base (R31). -/
theorem Contiguous.newest_dist {base newest : WinEntry} {w : List WinEntry} (h : Contiguous (base :: w))
    (hlen : (base :: w).length ≤ 256) (hlast : newest ∈ (base :: w).getLast?) :
    (newest.seq - base.seq).toNat + 1 = (base :: w).length := by
  rw [Option.mem_def, List.getLast?_eq_getElem?] at hlast
  obtain ⟨hlt, rfl⟩ := List.getElem?_eq_some_iff.mp hlast
  rw [(h.seq_eq_iff hlt hlen _).mp rfl]
  rfl

/-- In a window of at most 127 numbers every covered number passes the sign test from the base (R193). -/
theorem Contiguous.coverOf_ne_none_iff {base newest : WinEntry} {w : List WinEntry} (h : Contiguous (base :: w))
    (hlen : (base :: w).length ≤ 127) (hlast : newest ∈ (base :: w).getLast?) (n : Seq) :
    coverOf (base :: w) n ≠ none ↔
      (n = base.seq ∨ seqNewer n base.seq = true) ∧ (n - base.seq).toNat ≤ (newest.seq - base.seq).toNat := by
  have hnewest := h.newest_dist (by omega) hlast
  rw [coverOf_cons_ne_none_iff, eq_or_seqNewer_iff]
  omega

end Sys2Proof.Machine

open Sys2Proof Sys2Proof.Machine Sys2Proof.Laws

/-- Settles O22: both tests are bounds on the distance from the base, and the newest entry's distance is the window's
length less one. -/
theorem winCoverIsWindowMembership : Obligations.WinCoverIsWindowMembership := by
  intro s t dst n r hcont hlen he hresult
  obtain rfl := Host.Outcome.next.inj he
  obtain rfl := Response.covered.inj hresult
  refine ⟨fun k => hcont.coverOf_eq_some_iff (by omega), fun base hbase newest hlast => ?_⟩
  obtain ⟨w, hw⟩ := List.head?_eq_some_iff.mp hbase
  rw [hw] at hcont hlen hlast
  rw [exec_seqNewer_true_iff, winCover, hw]
  exact hcont.coverOf_ne_none_iff hlen hlast n

/-- Settles O17: one write to the destination's counter. -/
theorem seqAllocTakesTheNextNumber : Obligations.SeqAllocTakesTheNextNumber := by
  intro s dst
  refine ⟨EncodeSelects.seqAlloc dst, _, exec_seqAlloc s dst, ?_, fun k hk => peerGet_peerSet_ne _ _ hk⟩
  rw [peerGet_peerSet_self, seq_succ_toNat]

/-- Settles O18: the distance, its sign test, and the test the other way round by the distance's complement. -/
theorem seqDistanceAndNewerTest : Obligations.SeqDistanceAndNewerTest := by
  intro s a b
  refine ⟨EncodeSelects.seqDist a b, EncodeSelects.seqNewer a b, a - b, seqDist_toNat a b, exec_seqDist s a b,
    exec_seqNewer_dist s a b, fun hd => ?_, fun hd => ?_⟩
  · have hswap := seqDist_swap a b (by omega)
    have hlt := (a - b).isLt
    rw [exec_seqNewer_dist, decide_eq_true (by omega)]
  · have hswap := seqDist_swap a b (by omega)
    rw [exec_seqNewer_dist, decide_eq_false (by omega)]

/-- Settles O19: the expected number writes the source's counter, and any other number writes none. -/
theorem seqAcceptClassifiesAndAdvances : Obligations.SeqAcceptClassifiesAndAdvances := by
  intro s src n
  refine ⟨EncodeSelects.seqAccept src n, fun h => ?_, fun h => ?_⟩
  · refine ⟨_, exec_seqAccept_inOrder h, ?_, fun k hk => peerGet_peerSet_ne _ _ hk⟩
    rw [peerGet_peerSet_self, seq_succ_toNat]
  · exact ⟨_, seq_pred_toNat _, exec_seqAccept_notInOrder h⟩

/-- Settles O20: the room test, and one write to the destination's window. -/
theorem winPushAppendsTheEntry : Obligations.WinPushAppendsTheEntry := fun _ dst n frame last =>
  ⟨EncodeSelects.winPush dst n frame last,
    fun hroom => ⟨_, exec_winPush_room n frame last hroom, peerGet_peerSet_self _ _ _,
      fun _ hk => peerGet_peerSet_ne _ _ hk⟩,
    fun hfull => exec_winPush_full n frame last hfull⟩

/-- Settles O21: the window's shape decides, then the distance from its oldest entry. -/
theorem winCoverCountsFromTheBase : Obligations.WinCoverCountsFromTheBase := by
  intro s dst n
  rw [exec_winCover]
  refine ⟨EncodeSelects.winCover dst n, fun hw => by rw [hw, coverOf_nil], ?_⟩
  rintro base hbase _ rfl
  obtain ⟨w, hw⟩ := List.head?_eq_some_iff.mp hbase
  rw [hw, coverOf_cons]
  exact ⟨fun hin => by rw [if_pos hin], fun hout => by rw [if_neg (Nat.not_lt.mpr hout)]⟩

/-- Settles O23: one write to the destination's window in each operation, behind the range test of the slide. -/
theorem winSlideAndClearRemoveTheOldest : Obligations.WinSlideAndClearRemoveTheOldest := by
  intro s dst k
  refine ⟨EncodeSelects.winSlide dst k, EncodeSelects.winClear dst, fun hpos hle => ?_, fun hout => ?_, ?_⟩
  · exact ⟨_, exec_winSlide_inRange ⟨hpos, hle⟩, peerGet_peerSet_self _ _ _, fun _ hj => peerGet_peerSet_ne _ _ hj⟩
  · exact exec_winSlide_outOfRange (by omega)
  · exact ⟨_, exec_winClear s dst, peerGet_peerSet_self _ _ _, fun _ hj => peerGet_peerSet_ne _ _ hj⟩

end

section
/-!
Stop-and-Wait (spec/43_arq_stop_and_wait.md): the start of an exchange (O24), its end by the matching ACK (O25), one run
of its timer (O26), and the exchange that no ACK answers, as an induction over the expiries (O27).
-/

namespace Sys2Proof.Machine

/-! ### What the operations answer -/

section
variable {s : State} {d : Addr}

/-- `SW.START` on an idle exchange with a payload that fits (R201). -/
theorem exec_swStart_idle {p : Bytes} (hidle : (peerGet s.sw d).state = .idle) (hp : p.length ≤ 255) :
    ∃ e ds k, Sent s.cfg s.txFreeAt s.draws s.drawCount s.clock e ds k ∧
      exec (.swStart d p) s =
        .next { s with
          nextTxSeq := peerSet s.nextTxSeq d (peerGet s.nextTxSeq d + 1)
          txFreeAt := e
          txOut := s.txOut ++ [⟨frameBytes s.cfg s.crc16Table s.cfg.nodeAddr d (peerGet s.nextTxSeq d) typeData p, e⟩]
          cnt := s.cnt.inc .txData
          sw := peerSet s.sw d ⟨.awaitAck,
            frameBytes s.cfg s.crc16Table s.cfg.nodeAddr d (peerGet s.nextTxSeq d) typeData p,
            peerGet s.nextTxSeq d, 0, e + s.cfg.arqTimeout⟩
          draws := ds
          drawCount := k
          result := .nothing } := by
  obtain ⟨e, ds, k, hsent, hstart⟩ := swStart_spec d p (s.answer .nothing) hp
  have hroom : exchangeIdle s d = true := beq_iff_eq.mpr hidle
  exact ⟨e, ds, k, hsent, (if_pos hroom).trans (congrArg _ hstart)⟩

/-- `SW.START` on an exchange that awaits its ACK (U16). -/
theorem exec_swStart_busy {p : Bytes} (h : (peerGet s.sw d).state = .awaitAck) :
    exec (.swStart d p) s = .refused .exchangeBusy :=
  if_neg (by simp [exchangeIdle, h])

theorem exec_swAck_matching {n : Seq} (h : (peerGet s.sw d).state = .awaitAck ∧ (peerGet s.sw d).seq = n) :
    exec (.swAck d n) s =
      .next { s with
        feedbackOut := s.feedbackOut ++ [⟨d, n, .success⟩]
        sw := peerSet s.sw d { peerGet s.sw d with state := .idle }
        result := .nothing } := by
  obtain ⟨-, -, hack⟩ := (swAck_spec d n (s.answer .nothing)).resolve_right fun ⟨hother, _⟩ => hother h
  exact congrArg _ hack

theorem exec_swAck_other {n : Seq} (h : ¬ ((peerGet s.sw d).state = .awaitAck ∧ (peerGet s.sw d).seq = n)) :
    exec (.swAck d n) s = .next { s with result := .nothing } := by
  obtain ⟨-, hack⟩ := (swAck_spec d n (s.answer .nothing)).resolve_left fun ⟨hawait, hseq, _⟩ => h ⟨hawait, hseq⟩
  exact congrArg _ hack

/-- `SW.TIMEOUT` with no expiry (R205). -/
theorem exec_swTimeout_notDue (h : (peerGet s.sw d).state = .idle ∨ s.clock < (peerGet s.sw d).deadline) :
    exec (.swTimeout d) s = .next { s with result := .nothing } := by
  have hnot : (peerGet s.sw d).state ≠ .awaitAck ∨ s.clock < (peerGet s.sw d).deadline :=
    h.imp_left fun hidle => by simp [hidle]
  exact congrArg _ (if_pos hnot)

section
variable (hawait : (peerGet s.sw d).state = .awaitAck) (hdue : (peerGet s.sw d).deadline ≤ s.clock)
include hawait hdue

/-- An exchange awaiting its ACK at or after the deadline is not in R205's case without an expiry. -/
theorem not_swTimeout_notDue : ¬ ((peerGet s.sw d).state ≠ .awaitAck ∨ s.clock < (peerGet s.sw d).deadline) :=
  fun h => h.elim (fun hnot => hnot hawait) (Nat.not_lt.mpr hdue)

/-- `SW.TIMEOUT` at an expiry with retries left (R205). -/
theorem exec_swTimeout_resend (hretry : (peerGet s.sw d).retry < s.cfg.maxRetries) :
    ∃ e ds k, Sent s.cfg s.txFreeAt s.draws s.drawCount s.clock e ds k ∧
      exec (.swTimeout d) s =
        .next { s with
          txFreeAt := e
          txOut := s.txOut ++ [⟨(peerGet s.sw d).frame, e⟩]
          cnt := ((s.cnt.inc .winTimeout).inc .txData).inc .retx
          sw := peerSet s.sw d
            { peerGet s.sw d with retry := (peerGet s.sw d).retry + 1, deadline := e + s.cfg.arqTimeout }
          draws := ds
          drawCount := k
          result := .nothing } := by
  rcases swTimeout_spec d (s.answer .nothing) with ⟨hnot, -⟩ | ⟨-, -, -, e, ds, k, hsent, htimeout⟩ | ⟨-, -, hspent, -⟩
  · exact absurd hnot (not_swTimeout_notDue hawait hdue)
  · exact ⟨e, ds, k, hsent, congrArg _ htimeout⟩
  · exact absurd hretry (Nat.not_lt.mpr hspent)

/-- `SW.TIMEOUT` at an expiry with the retries exhausted (R205, R293). -/
theorem exec_swTimeout_exhausted (hspent : s.cfg.maxRetries ≤ (peerGet s.sw d).retry) :
    exec (.swTimeout d) s =
      .next { s with
        cnt := s.cnt.inc .winTimeout
        feedbackOut := s.feedbackOut ++ [⟨d, (peerGet s.sw d).seq, .failure⟩]
        trace := s.trace ++ [.retryExhausted d (peerGet s.sw d).seq]
        sw := peerSet s.sw d { peerGet s.sw d with state := .idle }
        result := .nothing } := by
  rcases swTimeout_spec d (s.answer .nothing) with ⟨hnot, -⟩ | ⟨-, -, hretry, -⟩ | ⟨-, -, -, htimeout⟩
  · exact absurd hnot (not_swTimeout_notDue hawait hdue)
  · exact absurd hretry (Nat.not_lt.mpr hspent)
  · exact congrArg _ htimeout

end

end

/-! ### An exchange that no ACK answers (R206) -/

/-- From s to t the node sends this frame n times and nothing else. -/
def SendsCopies (frame : Bytes) (n : Nat) (s t : State) : Prop :=
  ∃ evs : List TxEvent, t.txOut = s.txOut ++ evs ∧ evs.map TxEvent.frame = List.replicate n frame

theorem SendsCopies.zero {frame : Bytes} {s t : State} (h : t.txOut = s.txOut) : SendsCopies frame 0 s t :=
  ⟨[], by rw [h, List.append_nil], rfl⟩

theorem SendsCopies.succ {frame : Bytes} {n e : Nat} {s s' t : State} (hfirst : s'.txOut = s.txOut ++ [⟨frame, e⟩])
    (hrest : SendsCopies frame n s' t) : SendsCopies frame (n + 1) s t := by
  obtain ⟨evs, hout, hframes⟩ := hrest
  refine ⟨⟨frame, e⟩ :: evs, ?_, ?_⟩
  · rw [hout, hfirst, List.append_assoc, List.singleton_append]
  · rw [List.map_cons, hframes, List.replicate_succ]

/-- What an exchange with n retransmissions left does from s to t when no ACK comes: n more copies of its frame, one
FAILURE with its number, the exchange idle, and the counts of R206. -/
structure FailsAfter (d : Addr) (frame : Bytes) (q : Seq) (n : Nat) (s t : State) : Prop where
  sent : SendsCopies frame n s t
  reported : t.feedbackOut = s.feedbackOut ++ [⟨d, q, .failure⟩]
  idle : (peerGet t.sw d).state = .idle
  counted : t.cnt =
    { s.cnt with
      winTimeout := s.cnt.winTimeout + (n + 1)
      retx := s.cnt.retx + n
      txData := s.cnt.txData + n }

/-- R206 from any retry count: the expiries re-send while retries remain, and the last one fails the exchange. -/
theorem failsAfter_of_expiries {d : Addr} {frame : Bytes} {q : Seq} {n retry deadline : Nat} {s t : State}
    (hrun : Expiries (.swTimeout d) (fun u => (peerGet u.sw d).deadline) (n + 1) s t)
    (hentry : peerGet s.sw d = ⟨.awaitAck, frame, q, retry, deadline⟩) (hleft : retry + n = s.cfg.maxRetries) :
    FailsAfter d frame q n s t := by
  induction n generalizing s retry deadline with
  | zero =>
    obtain _ | ⟨_, _, s', _, now, hdue, hexec, hnone⟩ := hrun
    cases hnone
    have hfail := exec_swTimeout_exhausted (s := { s with clock := now }) (d := d) (by simp [hentry]) hdue
      (by simp [hentry, ← hleft])
    obtain rfl := Host.Outcome.next.inj (hfail.symm.trans hexec)
    exact ⟨.zero rfl, by simp [hentry], by simp, rfl⟩
  | succ n ih =>
    obtain _ | ⟨_, _, s', _, now, hdue, hexec, hrest⟩ := hrun
    obtain ⟨e, ds, k, -, hresend⟩ := exec_swTimeout_resend (s := { s with clock := now }) (d := d) (by simp [hentry])
      hdue (by simp [hentry, ← hleft])
    obtain rfl := Host.Outcome.next.inj (hresend.symm.trans hexec)
    have htail := ih hrest (retry := retry + 1) (deadline := e + s.cfg.arqTimeout) (by simp [hentry])
      (by simp only; omega)
    refine ⟨htail.sent.succ (e := e) (by simp [hentry]), htail.reported, htail.idle, ?_⟩
    rw [htail.counted]
    simp only [Counters.inc, Counters.mk.injEq, true_and, and_true]
    omega

end Sys2Proof.Machine

open Sys2Proof Sys2Proof.Machine Sys2Proof.Laws

/-- Settles O24: the start on an idle exchange with what the arbiter guarantees of its emission, and the refusal. -/
theorem swStartBeginsTheExchange : Obligations.SwStartBeginsTheExchange := by
  intro s dst p
  refine ⟨EncodeSelects.swStart dst p, ?_, exec_swStart_busy⟩
  rintro hidle hp hb _ _ rfl rfl
  obtain ⟨e, ds, k, hsent, hexec⟩ := exec_swStart_idle hidle hp
  exact ⟨e, ds, k, hsent.emitted hb, ⟨hsent.consumed, hsent.counted⟩, hexec⟩

/-- Settles O26: the three cases of the timer. -/
theorem swTimeoutRetriesOrFails : Obligations.SwTimeoutRetriesOrFails := by
  rintro s dst _ rfl
  refine ⟨EncodeSelects.swTimeout dst, exec_swTimeout_notDue, fun hawait hdue hretry hb => ?_, exec_swTimeout_exhausted⟩
  obtain ⟨e, ds, k, hsent, hexec⟩ := exec_swTimeout_resend hawait hdue hretry
  exact ⟨e, ds, k, hsent.emitted hb, ⟨hsent.consumed, hsent.counted⟩, hexec⟩

/-- Settles O27: the start sends the first copy with all retries left, and the expiries do the rest. -/
theorem swSendsRetriesPlusOneTimesThenFails : Obligations.SwSendsRetriesPlusOneTimesThenFails := by
  intro s s1 t dst p hidle hp hstart hrun
  obtain ⟨e, ds, k, -, hexec⟩ := exec_swStart_idle hidle hp
  obtain rfl := Host.Outcome.next.inj (hexec.symm.trans hstart)
  have hfails := failsAfter_of_expiries hrun (peerGet_peerSet_self _ _ _) (Nat.zero_add _)
  refine ⟨hfails.sent.succ rfl, hfails.reported, hfails.idle, ?_⟩
  rw [hfails.counted]
  simp only [Counters.inc, Counters.mk.injEq, and_true]
  omega

/-- Settles O25: the matching ACK and any other. -/
theorem swAckEndsTheMatchingExchange : Obligations.SwAckEndsTheMatchingExchange := fun _ src n =>
  ⟨EncodeSelects.swAck src n, exec_swAck_matching, exec_swAck_other⟩

end

section
/-!
Go-Back-N (spec/44_arq_go_back_n.md): the admission (O28), the cumulative ACK (O29), one run of the window's
timer (O30), and the window that no ACK touches, as an induction over the expiries (O31).
-/

namespace Sys2Proof.Machine

/-! ### What the operations answer -/

section
variable {s : State} {d : Addr}

/-- `GBN.ADMIT` on a window with room, with a payload that fits (R221). -/
theorem exec_gbnAdmit_room {p : Bytes} (hroom : (peerGet s.gbn d).window.length < s.cfg.windowSize)
    (hp : p.length ≤ 255) :
    ∃ e ds k, Sent s.cfg s.txFreeAt s.draws s.drawCount s.clock e ds k ∧
      exec (.gbnAdmit d p) s =
        .next { s with
          nextTxSeq := peerSet s.nextTxSeq d (peerGet s.nextTxSeq d + 1)
          txFreeAt := e
          txOut := s.txOut ++ [⟨frameBytes s.cfg s.crc16Table s.cfg.nodeAddr d (peerGet s.nextTxSeq d) typeData p, e⟩]
          cnt := s.cnt.inc .txData
          gbn := peerSet s.gbn d
            { window := (peerGet s.gbn d).window ++ [⟨peerGet s.nextTxSeq d,
                frameBytes s.cfg s.crc16Table s.cfg.nodeAddr d (peerGet s.nextTxSeq d) typeData p, false, true⟩]
              retry := if (peerGet s.gbn d).window = [] then 0 else (peerGet s.gbn d).retry
              deadline := if (peerGet s.gbn d).window = [] then e + s.cfg.arqTimeout else (peerGet s.gbn d).deadline }
          draws := ds
          drawCount := k
          result := .nothing } := by
  obtain ⟨e, ds, k, hsent, hadmit⟩ := gbnAdmit_spec d p (s.answer .nothing) hp
  have hguard : windowHasRoom s d = true := decide_eq_true hroom
  exact ⟨e, ds, k, hsent, (if_pos hguard).trans (congrArg _ hadmit)⟩

/-- `GBN.ADMIT` on a full window (U16). -/
theorem exec_gbnAdmit_full {p : Bytes} (hfull : s.cfg.windowSize ≤ (peerGet s.gbn d).window.length) :
    exec (.gbnAdmit d p) s = .refused .windowFull :=
  if_neg (by simpa [windowHasRoom] using hfull)

/-- `GBN.ACK` that covers k entries (R224). -/
theorem exec_gbnAck_covers {n : Seq} {k : Nat} (h : coverOf (peerGet s.gbn d).window n = some k) :
    exec (.gbnAck d n) s =
      .next { s with
        feedbackOut := s.feedbackOut ++
          (((peerGet s.gbn d).window.take k).filter WinEntry.owesFeedback).map (fun e => ⟨d, e.seq, .success⟩)
        gbn := peerSet s.gbn d
          { window := (peerGet s.gbn d).window.drop k
            retry := if (peerGet s.gbn d).window.drop k = [] then (peerGet s.gbn d).retry else 0
            deadline := if (peerGet s.gbn d).window.drop k = [] then (peerGet s.gbn d).deadline
              else s.clock + s.cfg.arqTimeout }
        result := .nothing } := by
  rcases gbnAck_spec d n (s.answer .nothing) with ⟨hnone, -⟩ | ⟨j, hj, -, -, hack⟩
  · cases h.symm.trans hnone
  · obtain rfl := Option.some.inj (h.symm.trans hj)
    exact congrArg _ hack

/-- `GBN.ACK` that covers nothing (R225). -/
theorem exec_gbnAck_stray {n : Seq} (h : coverOf (peerGet s.gbn d).window n = none) :
    exec (.gbnAck d n) s = .next { s with result := .nothing } := by
  rcases gbnAck_spec d n (s.answer .nothing) with ⟨-, hack⟩ | ⟨j, hj, -⟩
  · exact congrArg _ hack
  · cases h.symm.trans hj

/-- `GBN.TIMEOUT` with no expiry (R226). -/
theorem exec_gbnTimeout_notDue (h : (peerGet s.gbn d).window = [] ∨ s.clock < (peerGet s.gbn d).deadline) :
    exec (.gbnTimeout d) s = .next { s with result := .nothing } :=
  congrArg _ (if_pos h)

section
variable (hw : (peerGet s.gbn d).window ≠ []) (hdue : (peerGet s.gbn d).deadline ≤ s.clock)
include hw hdue

/-- An active window at or after the deadline is not in R226's case without an expiry. -/
theorem not_gbnTimeout_notDue : ¬ ((peerGet s.gbn d).window = [] ∨ s.clock < (peerGet s.gbn d).deadline) :=
  fun h => h.elim hw (Nat.not_lt.mpr hdue)

/-- `GBN.TIMEOUT` at an expiry within the budget (R226). -/
theorem exec_gbnTimeout_resend (hretry : (peerGet s.gbn d).retry + 1 ≤ s.cfg.maxRetries) :
    ∃ evs e ds k, evs.map TxEvent.frame = (peerGet s.gbn d).window.map WinEntry.frame ∧
      (evs.map TxEvent.emitTime).getLast? = some e ∧
      (s.cfg.backoffMin ≤ s.cfg.backoffMax →
        EmittedInTurn s.cfg s.clock s.txFreeAt (evs.map TxEvent.emitTime)) ∧
      DrawsConsumed s ds k ∧
      exec (.gbnTimeout d) s =
        .next { s with
          txFreeAt := e
          txOut := s.txOut ++ evs
          cnt := (s.cnt.inc .winTimeout).resent (peerGet s.gbn d).window.length
          gbn := peerSet s.gbn d
            { peerGet s.gbn d with retry := (peerGet s.gbn d).retry + 1, deadline := e + s.cfg.arqTimeout }
          draws := ds
          drawCount := k
          result := .nothing } := by
  rcases gbnTimeout_spec d (s.answer .nothing) with
    ⟨hnot, -⟩ | ⟨-, -, -, evs, e, ds, k, hframes, -, hlast, -, hturn, hds, hk, htimeout⟩ | ⟨-, -, hspent, -⟩
  · exact absurd hnot (not_gbnTimeout_notDue hw hdue)
  · exact ⟨evs, e, ds, k, hframes, hlast, hturn, ⟨hds, hk⟩, congrArg _ htimeout⟩
  · exact absurd hretry (Nat.not_le.mpr hspent)

/-- `GBN.TIMEOUT` at an expiry beyond the budget (R226, R293). -/
theorem exec_gbnTimeout_exhausted (hspent : s.cfg.maxRetries < (peerGet s.gbn d).retry + 1) :
    exec (.gbnTimeout d) s =
      .next { s with
        cnt := s.cnt.inc .winTimeout
        feedbackOut := s.feedbackOut ++
          ((peerGet s.gbn d).window.filter WinEntry.owesFeedback).map (fun e => ⟨d, e.seq, .failure⟩)
        trace := s.trace ++
          ((peerGet s.gbn d).window.filter WinEntry.owesFeedback).map (fun e => .retryExhausted d e.seq)
        gbn := peerSet s.gbn d { peerGet s.gbn d with window := [], retry := 0 }
        result := .nothing } := by
  rcases gbnTimeout_spec d (s.answer .nothing) with ⟨hnot, -⟩ | ⟨-, -, hretry, -⟩ | ⟨-, -, -, htimeout⟩
  · exact absurd hnot (not_gbnTimeout_notDue hw hdue)
  · exact absurd hretry (Nat.not_le.mpr hspent)
  · exact congrArg _ htimeout

end

end

/-! ### A window that no ACK touches (R227) -/

/-- From s to t the node sends these frames, in order, n times over and nothing else. -/
def SendsRounds (frames : List Bytes) (n : Nat) (s t : State) : Prop :=
  ∃ evs : List TxEvent, t.txOut = s.txOut ++ evs ∧ evs.map TxEvent.frame = (List.replicate n frames).flatten

theorem SendsRounds.zero {frames : List Bytes} {s t : State} (h : t.txOut = s.txOut) : SendsRounds frames 0 s t :=
  ⟨[], by rw [h, List.append_nil], rfl⟩

theorem SendsRounds.succ {frames : List Bytes} {n : Nat} {s s' t : State} {evs : List TxEvent}
    (hfirst : s'.txOut = s.txOut ++ evs) (hframes : evs.map TxEvent.frame = frames)
    (hrest : SendsRounds frames n s' t) : SendsRounds frames (n + 1) s t := by
  obtain ⟨more, hout, hmore⟩ := hrest
  refine ⟨evs ++ more, ?_, ?_⟩
  · rw [hout, hfirst, List.append_assoc]
  · rw [List.map_append, hframes, hmore, List.replicate_succ, List.flatten_cons]

/-- What a window with n retransmissions left does from s to t when no ACK comes: n more rounds of its frames, one
FAILURE for each message that is owed one, the window empty, and the counts of R227. -/
structure WindowFailsAfter (d : Addr) (w : List WinEntry) (n : Nat) (s t : State) : Prop where
  sent : SendsRounds (w.map WinEntry.frame) n s t
  reported : t.feedbackOut = s.feedbackOut ++ (w.filter WinEntry.owesFeedback).map (fun e => ⟨d, e.seq, .failure⟩)
  empty : (peerGet t.gbn d).window = []
  counted : t.cnt =
    { s.cnt with
      winTimeout := s.cnt.winTimeout + (n + 1)
      retx := s.cnt.retx + n * w.length
      txData := s.cnt.txData + n * w.length }

/-- R227 from any retry count: the expiries re-send the window while the budget lasts, and the last one fails it. -/
theorem windowFailsAfter_of_expiries {d : Addr} {w : List WinEntry} {n : Nat} {s t : State}
    (hrun : Expiries (.gbnTimeout d) (fun u => (peerGet u.gbn d).deadline) (n + 1) s t)
    (hwindow : (peerGet s.gbn d).window = w) (hw : w ≠ []) (hleft : (peerGet s.gbn d).retry + n = s.cfg.maxRetries) :
    WindowFailsAfter d w n s t := by
  subst hwindow
  induction n generalizing s with
  | zero =>
    obtain _ | ⟨_, _, s', _, now, hdue, hexec, hnone⟩ := hrun
    cases hnone
    have hfail := exec_gbnTimeout_exhausted (s := { s with clock := now }) hw hdue (by simp only; omega)
    obtain rfl := Host.Outcome.next.inj (hfail.symm.trans hexec)
    exact ⟨.zero rfl, rfl, by simp, by simp [Counters.inc]⟩
  | succ n ih =>
    obtain _ | ⟨_, _, s', _, now, hdue, hexec, hrest⟩ := hrun
    obtain ⟨evs, e, ds, k, hframes, -, -, -, hresend⟩ :=
      exec_gbnTimeout_resend (s := { s with clock := now }) hw hdue (by simp only; omega)
    obtain rfl := Host.Outcome.next.inj (hresend.symm.trans hexec)
    have htail := ih hrest (by simp only [peerGet_peerSet_self]; omega) (by simpa using hw)
    simp only [peerGet_peerSet_self] at htail
    refine ⟨htail.sent.succ rfl hframes, htail.reported, htail.empty, ?_⟩
    rw [htail.counted]
    simp only [Counters.inc, Counters.resent, Counters.mk.injEq, true_and, and_true, Nat.succ_mul]
    omega

end Sys2Proof.Machine

open Sys2Proof Sys2Proof.Machine Sys2Proof.Laws

/-- Settles O28: the admission into a window with room, and the refusal. -/
theorem gbnAdmitExtendsTheWindow : Obligations.GbnAdmitExtendsTheWindow := by
  rintro s dst p _ rfl
  refine ⟨EncodeSelects.gbnAdmit dst p, ?_, exec_gbnAdmit_full⟩
  rintro hroom hp hb _ _ rfl rfl
  obtain ⟨e, ds, k, hsent, hexec⟩ := exec_gbnAdmit_room hroom hp
  exact ⟨e, ds, k, hsent.emitted hb, ⟨hsent.consumed, hsent.counted⟩, hexec⟩

/-- Settles O29: whether the number is within the window's length of the base decides between the two cases. -/
theorem gbnAckSlidesTheWindow : Obligations.GbnAckSlidesTheWindow := by
  rintro s src n _ rfl
  refine ⟨EncodeSelects.gbnAck src n, ?_, ?_⟩
  · rintro (hempty | ⟨base, hbase, hbeyond⟩)
    · exact exec_gbnAck_stray (by rw [hempty, coverOf_nil])
    · obtain ⟨w, hw⟩ := List.head?_eq_some_iff.mp hbase
      refine exec_gbnAck_stray ?_
      rw [hw] at hbeyond
      rw [hw, coverOf_cons, if_neg (Nat.not_lt.mpr hbeyond)]
  · rintro base hbase _ rfl hwithin
    obtain ⟨w, hw⟩ := List.head?_eq_some_iff.mp hbase
    refine exec_gbnAck_covers ?_
    rw [hw] at hwithin
    rw [hw, coverOf_cons_eq_some_iff]
    exact ⟨hwithin, rfl⟩

/-- Settles O30: the three cases of the window's timer. -/
theorem gbnTimeoutResendsTheWindowOrFails : Obligations.GbnTimeoutResendsTheWindowOrFails := by
  rintro s dst _ rfl
  refine ⟨EncodeSelects.gbnTimeout dst, exec_gbnTimeout_notDue, fun hw hdue hretry hb => ?_, ?_⟩
  · obtain ⟨evs, e, ds, k, hframes, hlast, hturn, hdraws, hexec⟩ := exec_gbnTimeout_resend hw hdue hretry
    exact ⟨evs, e, ds, k, hframes, hturn hb, hlast, hdraws, hexec⟩
  · rintro hw hdue hspent _ rfl
    exact exec_gbnTimeout_exhausted hw hdue hspent

/-- Settles O31: the run of expiries from a window with its whole budget left. -/
theorem gbnResendsRetriesTimesThenFails : Obligations.GbnResendsRetriesTimesThenFails := by
  intro s t dst w hwindow hw hretry hrun
  have hfails := windowFailsAfter_of_expiries hrun hwindow hw (by rw [hretry, Nat.zero_add])
  exact ⟨hfails.sent, hfails.reported, hfails.empty, hfails.counted⟩

end

section
/-!
The ARQ state is keyed by destination (spec/44_arq_go_back_n.md R230): an operation on one destination commutes
with putting anything at another (`State.withPeer`), for each engine function in turn. That it writes nothing there
follows, by putting there what stands there already (O32).
-/

namespace Sys2Proof.Machine

/-! ### Another destination's state put in place -/

/-- The state with this window, exchange and next number at destination k. -/
def State.withPeer (s : State) (k : Addr) (g : GbnEntry) (x : SwEntry) (n : Seq) : State :=
  { s with gbn := peerSet s.gbn k g, sw := peerSet s.sw k x, nextTxSeq := peerSet s.nextTxSeq k n }

/-- A state is itself with what it holds at k put there. -/
theorem State.withPeer_own (s : State) (k : Addr) :
    s.withPeer k (peerGet s.gbn k) (peerGet s.sw k) (peerGet s.nextTxSeq k) = s := by
  simp [State.withPeer]

section
variable (s : State) (k : Addr) (g : GbnEntry) (x : SwEntry) (n : Seq)

@[simp] theorem State.withPeer_cfg : (s.withPeer k g x n).cfg = s.cfg := rfl
@[simp] theorem State.withPeer_clock : (s.withPeer k g x n).clock = s.clock := rfl

@[simp] theorem State.withPeer_gbn_self : peerGet (s.withPeer k g x n).gbn k = g := peerGet_peerSet_self _ _ _
@[simp] theorem State.withPeer_sw_self : peerGet (s.withPeer k g x n).sw k = x := peerGet_peerSet_self _ _ _
@[simp] theorem State.withPeer_nextTxSeq_self : peerGet (s.withPeer k g x n).nextTxSeq k = n :=
  peerGet_peerSet_self _ _ _

/-! ### The effects that name no destination -/

@[simp] theorem State.count_withPeer (c : CounterName) :
    (s.withPeer k g x n).count c = (s.count c).withPeer k g x n := rfl

@[simp] theorem State.emitFeedback_withPeer (e : FeedbackEvent) :
    (s.withPeer k g x n).emitFeedback e = (s.emitFeedback e).withPeer k g x n := rfl

@[simp] theorem raise_withPeer (c : Cause) : raise c (s.withPeer k g x n) = (raise c s).withPeer k g x n := by
  cases c <;> rfl

@[simp] theorem macSend_withPeer (frame : Bytes) (t : Nat) :
    macSend frame t (s.withPeer k g x n) = ((macSend frame t s).1, (macSend frame t s).2.withPeer k g x n) := rfl

@[simp] theorem encodeFrame_withPeer (src dst seq ty : Byte) (p : Bytes) :
    encodeFrame (s.withPeer k g x n) src dst seq ty p = encodeFrame s src dst seq ty p := rfl

@[simp] theorem reportDelivered_withPeer (d : Addr) (es : List WinEntry) :
    reportDelivered d es (s.withPeer k g x n) = (reportDelivered d es s).withPeer k g x n := by
  simp only [reportDelivered_eq]; rfl

@[simp] theorem reportFailed_withPeer (d : Addr) (es : List WinEntry) :
    reportFailed d es (s.withPeer k g x n) = (reportFailed d es s).withPeer k g x n := by
  simp only [reportFailed_eq]; rfl

@[simp] theorem resendAll_withPeer (es : List WinEntry) (e : Nat) :
    resendAll es e (s.withPeer k g x n) = ((resendAll es e s).1, (resendAll es e s).2.withPeer k g x n) := by
  induction es generalizing e s with
  | nil => rfl
  | cons w es ih => simp only [resendAll, macSend_withPeer, State.count_withPeer, State.withPeer_clock, ih]

end

/-! ### The operations on another destination -/

section
variable {k d : Addr} (hkd : k ≠ d) (s : State) (g : GbnEntry) (x : SwEntry) (n : Seq)
include hkd

theorem State.withPeer_gbn_ne : peerGet (s.withPeer k g x n).gbn d = peerGet s.gbn d := peerGet_peerSet_ne _ _ hkd.symm
theorem State.withPeer_sw_ne : peerGet (s.withPeer k g x n).sw d = peerGet s.sw d := peerGet_peerSet_ne _ _ hkd.symm

theorem State.setGbn_withPeer (v : GbnEntry) :
    (s.withPeer k g x n).setGbn d v = (s.setGbn d v).withPeer k g x n := by
  simp only [State.withPeer, State.setGbn, peerSet_comm s.gbn g v hkd]

theorem State.setSw_withPeer (v : SwEntry) :
    (s.withPeer k g x n).setSw d v = (s.setSw d v).withPeer k g x n := by
  simp only [State.withPeer, State.setSw, peerSet_comm s.sw x v hkd]

theorem seqAlloc_withPeer :
    seqAlloc d (s.withPeer k g x n) = ((seqAlloc d s).1, (seqAlloc d s).2.withPeer k g x n) := by
  have hget : peerGet (peerSet s.nextTxSeq k n) d = peerGet s.nextTxSeq d := peerGet_peerSet_ne _ _ hkd.symm
  simp only [seqAlloc_eq, State.withPeer, hget, peerSet_comm s.nextTxSeq n _ hkd]

theorem setGbnTimer_withPeer (retry deadline : Nat) :
    setGbnTimer d retry deadline (s.withPeer k g x n) = (setGbnTimer d retry deadline s).withPeer k g x n := by
  simp only [setGbnTimer, State.withPeer_gbn_ne hkd, State.setGbn_withPeer hkd]

theorem winPush_withPeer (e : WinEntry) :
    winPush d e (s.withPeer k g x n) = (winPush d e s).withPeer k g x n := by
  simp only [winPush, State.withPeer_gbn_ne hkd, State.setGbn_withPeer hkd]

theorem winSlide_withPeer (j : Nat) :
    winSlide d j (s.withPeer k g x n) = ((winSlide d j s).1, (winSlide d j s).2.withPeer k g x n) := by
  simp only [winSlide, State.withPeer_gbn_ne hkd, State.setGbn_withPeer hkd]

theorem winClear_withPeer :
    winClear d (s.withPeer k g x n) = ((winClear d s).1, (winClear d s).2.withPeer k g x n) := by
  simp only [winClear, State.withPeer_gbn_ne hkd, State.setGbn_withPeer hkd]

theorem swStart_withPeer (p : Bytes) : swStart d p (s.withPeer k g x n) = (swStart d p s).withPeer k g x n := by
  unfold swStart
  simp only [seqAlloc_withPeer hkd, encodeFrame_withPeer, State.withPeer_cfg]
  cases encodeFrame (seqAlloc d s).2 s.cfg.nodeAddr d (seqAlloc d s).1 typeData p with
  | none => exact raise_withPeer s k g x n .payloadTooLong
  | some frame =>
    simp only [State.withPeer_clock, macSend_withPeer, State.count_withPeer, State.setSw_withPeer hkd]

theorem swAck_withPeer (a : Seq) : swAck d a (s.withPeer k g x n) = (swAck d a s).withPeer k g x n := by
  simp only [swAck, State.withPeer_sw_ne hkd]
  split
  · rw [State.emitFeedback_withPeer, State.setSw_withPeer hkd]
  · rfl

theorem swTimeout_withPeer : swTimeout d (s.withPeer k g x n) = (swTimeout d s).withPeer k g x n := by
  simp only [swTimeout, State.withPeer_sw_ne hkd, State.withPeer_clock, State.withPeer_cfg]
  split
  · rfl
  split
  · simp only [State.count_withPeer, macSend_withPeer, State.setSw_withPeer hkd]
  · simp only [State.count_withPeer, raise_withPeer, State.setSw_withPeer hkd]

theorem gbnAdmit_withPeer (p : Bytes) : gbnAdmit d p (s.withPeer k g x n) = (gbnAdmit d p s).withPeer k g x n := by
  unfold gbnAdmit
  simp only [seqAlloc_withPeer hkd, encodeFrame_withPeer, State.withPeer_cfg]
  cases encodeFrame (seqAlloc d s).2 s.cfg.nodeAddr d (seqAlloc d s).1 typeData p with
  | none => exact raise_withPeer s k g x n .payloadTooLong
  | some frame =>
    simp only [State.withPeer_clock, macSend_withPeer, State.count_withPeer, winPush_withPeer hkd,
      State.withPeer_gbn_ne hkd]
    split
    · exact setGbnTimer_withPeer hkd _ g x n _ _
    · rfl

theorem gbnAck_withPeer (a : Seq) : gbnAck d a (s.withPeer k g x n) = (gbnAck d a s).withPeer k g x n := by
  simp only [gbnAck, winCover, State.withPeer_gbn_ne hkd]
  cases coverOf (peerGet s.gbn d).window a with
  | none => rfl
  | some j =>
    simp only [winSlide_withPeer hkd, reportDelivered_withPeer, State.withPeer_gbn_ne hkd, State.withPeer_clock,
      State.withPeer_cfg]
    split
    · exact setGbnTimer_withPeer hkd _ g x n _ _
    · rfl

theorem gbnTimeout_withPeer : gbnTimeout d (s.withPeer k g x n) = (gbnTimeout d s).withPeer k g x n := by
  simp only [gbnTimeout, State.withPeer_gbn_ne hkd, State.withPeer_clock, State.withPeer_cfg]
  split
  · rfl
  split
  · simp only [State.count_withPeer, resendAll_withPeer, setGbnTimer_withPeer hkd]
  · simp only [State.count_withPeer, winClear_withPeer hkd, reportFailed_withPeer, State.withPeer_gbn_ne hkd,
      State.setGbn_withPeer hkd]

theorem windowHasRoom_withPeer : windowHasRoom (s.withPeer k g x n) d = windowHasRoom s d := by
  rw [windowHasRoom, State.withPeer_gbn_ne hkd, State.withPeer_cfg, windowHasRoom]

theorem exchangeIdle_withPeer : exchangeIdle (s.withPeer k g x n) d = exchangeIdle s d := by
  rw [exchangeIdle, State.withPeer_sw_ne hkd, exchangeIdle]

end

/-! ### From commuting to the frame -/

/-- The instruction does the same with any other window, exchange and number at k, and leaves those in place. -/
def IgnoresPeer (k : Addr) (i : Instr) : Prop :=
  ∀ (s t : State) (g : GbnEntry) (x : SwEntry) (n : Seq),
    exec i s = .next t → exec i (s.withPeer k g x n) = .next (t.withPeer k g x n)

/-- An instruction that ignores what stands at k writes none of it. -/
theorem IgnoresPeer.frame {k : Addr} {i : Instr} (h : IgnoresPeer k i) {s t : State} (hexec : exec i s = .next t) :
    peerGet t.gbn k = peerGet s.gbn k ∧ peerGet t.sw k = peerGet s.sw k ∧
      peerGet t.nextTxSeq k = peerGet s.nextTxSeq k := by
  have hown := h s t (peerGet s.gbn k) (peerGet s.sw k) (peerGet s.nextTxSeq k) hexec
  rw [State.withPeer_own, hexec] at hown
  rw [Host.Outcome.next.inj hown]
  simp

/-- An instruction ignores what stands at k when its engine function commutes with putting anything there. -/
theorem ignoresPeer_of_commutes {k : Addr} {i : Instr} {op : State → State}
    (hexec : ∀ s, exec i s = .next (op (s.answer .nothing)))
    (hop : ∀ s g x n, op (s.withPeer k g x n) = (op s).withPeer k g x n) : IgnoresPeer k i := by
  intro s t g x n hs
  rw [hexec] at hs ⊢
  obtain rfl := Host.Outcome.next.inj hs
  exact congrArg _ (hop (s.answer .nothing) g x n)

/-- The same behind a room test that does not look at k. -/
theorem ignoresPeer_of_guarded {k : Addr} {i : Instr} {op : State → State} {room : State → Bool} {r : Refusal}
    (hexec : ∀ s, exec i s = if room s then .next (op (s.answer .nothing)) else .refused r)
    (hroom : ∀ s g x n, room (s.withPeer k g x n) = room s)
    (hop : ∀ s g x n, op (s.withPeer k g x n) = (op s).withPeer k g x n) : IgnoresPeer k i := by
  intro s t g x n hs
  rw [hexec] at hs
  obtain ⟨hpass, hnext⟩ := next_of_guard hs
  obtain rfl := Host.Outcome.next.inj hnext
  rw [hexec, hroom, if_pos hpass]
  exact congrArg _ (hop (s.answer .nothing) g x n)

end Sys2Proof.Machine

open Sys2Proof Sys2Proof.Machine Sys2Proof.Laws

/-- Settles O32: each of the six operations ignores what stands at k, and so leaves it as it is. -/
theorem destinationsAreIndependent : Obligations.DestinationsAreIndependent := by
  intro i d k s t hkd hop hexec
  have hignores : IgnoresPeer k i := by
    rcases hop with ⟨p, rfl⟩ | ⟨a, rfl⟩ | rfl | ⟨p, rfl⟩ | ⟨a, rfl⟩ | rfl
    · exact ignoresPeer_of_guarded (op := gbnAdmit d p) (fun _ => rfl) (windowHasRoom_withPeer hkd)
        fun s g x n => gbnAdmit_withPeer hkd s g x n p
    · exact ignoresPeer_of_commutes (op := gbnAck d a) (fun _ => rfl) fun s g x n => gbnAck_withPeer hkd s g x n a
    · exact ignoresPeer_of_commutes (op := gbnTimeout d) (fun _ => rfl) (gbnTimeout_withPeer hkd)
    · exact ignoresPeer_of_guarded (op := swStart d p) (fun _ => rfl) (exchangeIdle_withPeer hkd)
        fun s g x n => swStart_withPeer hkd s g x n p
    · exact ignoresPeer_of_commutes (op := swAck d a) (fun _ => rfl) fun s g x n => swAck_withPeer hkd s g x n a
    · exact ignoresPeer_of_commutes (op := swTimeout d) (fun _ => rfl) (swTimeout_withPeer hkd)
  obtain ⟨hgbn, hsw, hseq⟩ := hignores.frame hexec
  exact ⟨hgbn, hsw, hseq, fun g x n => hignores s t g x n hexec⟩

end

section
/-!
The arbiter (spec/45_aloha_mac.md): MAC.SEND as it releases a frame (O34), and the bound on its delay for one call and,
by induction over the calls, for any number of calls at one time (O35).
-/

namespace Sys2Proof.Machine

/-! ### What the operation answers -/

/-- `MAC.SEND` answers the emission time of the arbiter, run with the supplied draw before those supplied earlier. -/
theorem exec_macSend_of_release {frame : Bytes} {t e : Nat} {d : Draw} {s s' : State}
    (h : macSend frame t (s.supplyDraws [d]) = (e, s')) :
    exec (.macSend frame t d) s = .next (s'.answer (.time e)) :=
  congrArg (fun r : Nat × State => Host.Outcome.next (r.2.answer (.time r.1))) h

section
variable (frame : Bytes) (t : Nat) (d : Draw) (s : State)

/-- `MAC.SEND` under whatever draw it takes (R241). -/
theorem exec_macSend : ∃ e ds n, Sent s.cfg s.txFreeAt (d :: s.draws) s.drawCount t e ds n ∧
    exec (.macSend frame t d) s = .next { s with
      txFreeAt := e
      txOut := s.txOut ++ [⟨frame, e⟩]
      draws := ds
      drawCount := n
      result := .time e } := by
  obtain ⟨e, ds, n, hsend, hsent⟩ := macSend_spec frame t (s.supplyDraws [d])
  exact ⟨e, ds, n, hsent, exec_macSend_of_release hsend⟩

/-- `MAC.SEND` with a draw R241 allows: that draw fixes the emission time, and the queued ones stay (log 7). -/
theorem exec_macSend_legal (hlegal : drawLegal s.cfg d = true) :
    exec (.macSend frame t d) s = .next { s with
      txFreeAt := emissionTime t s.txFreeAt d
      txOut := s.txOut ++ [⟨frame, emissionTime t s.txFreeAt d⟩]
      result := .time (emissionTime t s.txFreeAt d) } := by
  have htake : takeDraw s.cfg (d :: s.draws) s.drawCount = (d, s.draws, s.drawCount) :=
    takeDraw_cons_legal s.cfg d s.draws s.drawCount hlegal
  have hsend : macSend frame t (s.supplyDraws [d]) = (emissionTime t s.txFreeAt d,
      { s with
        txFreeAt := emissionTime t s.txFreeAt d
        txOut := s.txOut ++ [⟨frame, emissionTime t s.txFreeAt d⟩] }) := by
    simp only [macSend, State.supplyDraws_cfg, State.supplyDraws_draws, State.supplyDraws_drawCount,
      List.singleton_append, htake]
    rfl
  exact exec_macSend_of_release hsend

end

/-! ### Calls one after the other (R244) -/

/-- Each call moves `tx_free_at` on by at most `BACKOFF_MAX`, whether or not the transmitter was free at the start. -/
theorem SendsAt.txFreeAt_le {now k : Nat} {s u : State} (hsends : SendsAt now k s u)
    (hb : s.cfg.backoffMin ≤ s.cfg.backoffMax) : u.txFreeAt ≤ max now s.txFreeAt + k * s.cfg.backoffMax := by
  induction hsends with
  | none s => omega
  | send k s s' u frame d hexec _ ih =>
    obtain ⟨e, ds, n, hsent, hnext⟩ := exec_macSend frame now d s
    obtain rfl := Host.Outcome.next.inj (hnext.symm.trans hexec)
    obtain ⟨hnow, -, hle⟩ := (hsent.emitted hb).le
    calc u.txFreeAt
      _ ≤ max now e + k * s.cfg.backoffMax := ih hb
      _ = e + k * s.cfg.backoffMax := by rw [Nat.max_eq_right hnow]
      _ ≤ max now s.txFreeAt + s.cfg.backoffMax + k * s.cfg.backoffMax := Nat.add_le_add_right hle _
      _ = max now s.txFreeAt + (k + 1) * s.cfg.backoffMax := by ring

end Sys2Proof.Machine

open Sys2Proof Sys2Proof.Machine Sys2Proof.Laws

/-- Settles O34: the supplied draw is the one used when R241 allows it; else the first legal one queued, or a free one. -/
theorem macSendReleasesTheFrame : Obligations.MacSendReleasesTheFrame := by
  intro s frame t d
  refine ⟨EncodeSelects.macSend frame t d, fun hb => ?_⟩
  by_cases hlegal : drawLegal s.cfg d = true
  · exact ⟨_, s.draws, s.drawCount, emittedAt_of_legal t s.txFreeAt hb hlegal, List.suffix_cons d s.draws, le_rfl,
      fun _ => ⟨rfl, rfl, rfl⟩, exec_macSend_legal frame t d s hlegal⟩
  · obtain ⟨e, ds, n, hsent, hnext⟩ := exec_macSend frame t d s
    exact ⟨e, ds, n, hsent.emitted hb, hsent.consumed, hsent.counted, fun h => absurd h hlegal, hnext⟩

/-- Settles O35: one call's emission is one R241 allows; the calls' bound starts from a transmitter that is free. -/
theorem macSendDelayIsBounded : Obligations.MacSendDelayIsBounded := by
  intro s hb
  constructor
  · intro frame t d
    obtain ⟨e, ds, n, hsent, hnext⟩ := exec_macSend frame t d s
    obtain ⟨ht, -, hle⟩ := (hsent.emitted hb).le
    exact ⟨_, e, hnext, rfl, ht, hle⟩
  · intro now k u hfree hsends
    simpa only [Nat.max_eq_left hfree] using hsends.txFreeAt_le hb

end

section
/-!
The phases of a tick (spec/46_node_engine.md): the ACK queue drained (O36), the timers scanned in ascending order (O37),
admission head of line (O38), the receive phase outcome by outcome (O39) and its end (O40), and the tick that runs the
four in order (O49).
-/

namespace Sys2Proof.Machine

/-! ### What the phases answer -/

section
variable (s : State)

@[simp] theorem State.answer_answer (r r' : Response) : (s.answer r).answer r' = s.answer r' := rfl

theorem exec_nodeAcks : exec .nodeAcks s = .next ((nodeAcks s).answer .nothing) :=
  congrArg _ (nodeAcks_answer s .nothing)

theorem exec_nodeTimers : exec .nodeTimers s = .next ((nodeTimers s).answer .nothing) := by
  rw [← nodeTimers_answer, exec, execNodeTimers]

theorem exec_nodeAdmit : exec .nodeAdmit s = .next ((nodeAdmit s).answer .nothing) := rfl

theorem exec_nodeRx : exec .nodeRx s = .next ((nodeRx s).answer .nothing) :=
  congrArg _ (nodeRx_answer s .nothing)

theorem exec_nodeRxFrame (f : Frame) : exec (.nodeRxFrame f) s = .next ((nodeRxFrame f s).answer .nothing) :=
  congrArg _ (nodeRxFrame_answer f s .nothing)

end

/-! ### The engine's operation under either ARQ mode -/

/-- `SW.ACK` or `GBN.ACK` of a queued ACK (R255). -/
def ackInstr (m : ArqMode) (a : AckNote) : Instr :=
  match m with
  | .sw => .swAck a.src a.seq
  | .gbn => .gbnAck a.src a.seq

/-- `SW.TIMEOUT` or `GBN.TIMEOUT` of a destination (R256). -/
def timeoutInstr (m : ArqMode) (d : Addr) : Instr :=
  match m with
  | .sw => .swTimeout d
  | .gbn => .gbnTimeout d

/-- `SW.START` or `GBN.ADMIT` of a queued message (R258). -/
def admitInstr (m : ArqMode) (msg : Message) : Instr :=
  match m with
  | .sw => .swStart msg.dst msg.payload
  | .gbn => .gbnAdmit msg.dst msg.payload

/-- How `SW.START` or `GBN.ADMIT` is refused without room (U16). -/
def noRoomRefusal : ArqMode → Refusal
  | .sw => .exchangeBusy
  | .gbn => .windowFull

section
variable {s : State} {m : ArqMode} (hm : s.cfg.arqMode = m)
include hm

theorem exec_ackInstr (a : AckNote) : exec (ackInstr m a) s = .next ((ackOne a s).answer .nothing) := by
  rw [← ackOne_answer, ackOne, State.answer_cfg, hm]
  cases m <;> rfl

theorem exec_timeoutInstr (d : Addr) : exec (timeoutInstr m d) s = .next ((timerOne s d).answer .nothing) := by
  rw [← timerOne_answer, timerOne, State.answer_cfg, hm]
  cases m <;> rfl

theorem exec_admitInstr (msg : Message) : exec (admitInstr m msg) s =
    if hasRoom s msg.dst then .next (admitOne msg (s.answer .nothing)) else .refused (noRoomRefusal m) := by
  rw [hasRoom, admitOne, State.answer_cfg, hm]
  cases m <;> rfl

end

/-! ### The ACK phase (R255) -/

section
variable {s : State}

theorem nodeAcks_nil (hq : s.ackq = []) : nodeAcks s = s := by
  rw [nodeAcks, hq, drainAcks]

theorem nodeAcks_cons {a : AckNote} {rest : List AckNote} (hq : s.ackq = a :: rest) :
    nodeAcks s = nodeAcks (ackOne a { s with ackq := rest }) := by
  have hrest : (ackOne a { s with ackq := rest }).ackq = rest := by rw [ackOne_frame]
  rw [nodeAcks, hq, drainAcks, nodeAcks, hrest]

theorem exec_nodeAcks_cons {s1 : State} {a : AckNote} {rest : List AckNote} {m : ArqMode} (hq : s.ackq = a :: rest)
    (hm : s.cfg.arqMode = m) (h : exec (ackInstr m a) { s with ackq := rest } = .next s1) :
    exec .nodeAcks s = exec .nodeAcks s1 := by
  obtain rfl := Host.Outcome.next.inj ((exec_ackInstr (s := { s with ackq := rest }) hm a).symm.trans h)
  rw [exec_nodeAcks, exec_nodeAcks, nodeAcks_cons hq, nodeAcks_answer, State.answer_answer]

end

/-! ### The timer phase (R256) -/

/-- The state after the timers of destinations 0 to k-1. -/
def timersTo (s : State) (k : Nat) : State := ((List.range k).map (BitVec.ofNat 8)).foldl timerOne s

theorem timersTo_succ (s : State) (k : Nat) : timersTo s (k + 1) = timerOne (timersTo s k) (BitVec.ofNat 8 k) := by
  simp [timersTo, List.range_succ]

/-- The phase is the scan past the last of the 256 destinations. -/
theorem exec_nodeTimers_timersTo (s : State) : exec .nodeTimers s = .next ((timersTo s 256).answer .nothing) :=
  exec_nodeTimers s

theorem exec_timeoutInstr_timersTo {s : State} {m : ArqMode} (hm : s.cfg.arqMode = m) (k : Nat) :
    exec (timeoutInstr m (BitVec.ofNat 8 k)) ((timersTo s k).answer .nothing) =
      .next ((timersTo s (k + 1)).answer .nothing) := by
  have hcfg : (timersTo s k).cfg = s.cfg := (timers_grow _ s).cfg
  have hmode : ((timersTo s k).answer .nothing).cfg.arqMode = m := by rw [State.answer_cfg, hcfg, hm]
  rw [exec_timeoutInstr hmode, timerOne_answer, State.answer_answer, timersTo_succ]

/-! ### The admission phase (R258) -/

section
variable {s : State}

theorem nodeAdmit_nil (hq : s.txq = []) : nodeAdmit s = s := by
  rw [nodeAdmit, hq, admitLoop]

section
variable {m : Message} {rest : List Message} (hq : s.txq = m :: rest)
include hq

theorem nodeAdmit_cons_full (hroom : hasRoom s m.dst = false) : nodeAdmit s = s := by
  rw [nodeAdmit, hq, admitLoop, if_neg (by simp [hroom])]

theorem nodeAdmit_cons_room (hroom : hasRoom s m.dst = true) :
    nodeAdmit s = nodeAdmit (admitOne m { s with txq := rest }) := by
  obtain ⟨-, hrest⟩ := admitOne_frame m { s with txq := rest }
  rw [nodeAdmit, hq, admitLoop, if_pos hroom, nodeAdmit, hrest]

theorem exec_nodeAdmit_cons_full (hroom : hasRoom s m.dst = false) :
    exec .nodeAdmit s = .next { s with result := .nothing } := by
  rw [exec_nodeAdmit, nodeAdmit_cons_full hq hroom]
  rfl

/-- An admission run alone has passed the room test, and its own response is overwritten when the phase ends. -/
theorem exec_nodeAdmit_cons_room {s1 : State} {mode : ArqMode} (hm : s.cfg.arqMode = mode)
    (h : exec (admitInstr mode m) { s with txq := rest } = .next s1) : exec .nodeAdmit s = exec .nodeAdmit s1 := by
  obtain ⟨hroom, hnext⟩ := next_of_guard ((exec_admitInstr (s := { s with txq := rest }) hm m).symm.trans h)
  obtain rfl := Host.Outcome.next.inj hnext
  have hpass : nodeAdmit (s.answer .nothing) =
      nodeAdmit (admitOne m (({ s with txq := rest } : State).answer .nothing)) :=
    nodeAdmit_cons_room (s := s.answer .nothing) hq hroom
  rw [exec_nodeAdmit, exec_nodeAdmit, ← nodeAdmit_answer s .nothing, hpass]

end

theorem hasRoom_sw_busy {d : Addr} (hm : s.cfg.arqMode = .sw) (hbusy : (peerGet s.sw d).state = .awaitAck) :
    hasRoom s d = false := by
  simp [hasRoom, hm, exchangeIdle, hbusy]

theorem hasRoom_gbn_full {d : Addr} (hm : s.cfg.arqMode = .gbn)
    (hfull : s.cfg.windowSize ≤ (peerGet s.gbn d).window.length) : hasRoom s d = false := by
  simp [hasRoom, hm, windowHasRoom, hfull]

end

/-! ### The receive phase (R259) -/

/-- The inbound bytes join the buffer before the loop begins. -/
theorem nodeRx_join (s : State) : nodeRx s = nodeRx { s with rxBuf := s.rxBuf ++ s.rxIn, rxIn := [] } := by
  simp [nodeRx, memAppend]

section
variable {s : State} (hin : s.rxIn = [])
include hin

/-- One pass of the loop, with fuel left for as many more as the buffer has bytes. -/
theorem nodeRx_pass : nodeRx s = rxLoop (s.rxBuf.length + 1) s := nodeRx_eq_rxLoop s hin _ (Nat.lt_succ_self _)

theorem nodeRx_of_noSync (h : decodeOutcome s.cfg s.crc16Table s.rxBuf = .noSync) :
    nodeRx s = raise (.noSync (discardCount s.rxBuf)) s := by
  simp only [nodeRx_pass hin, rxLoop, decodeFrame, h, noteOutcome]

theorem nodeRx_of_incomplete (h : decodeOutcome s.cfg s.crc16Table s.rxBuf = .incomplete) : nodeRx s = s := by
  simp only [nodeRx_pass hin, rxLoop, decodeFrame, h, noteOutcome]

theorem nodeRx_of_rejected {n : Nat} (h : decodeOutcome s.cfg s.crc16Table s.rxBuf = .rejected n) :
    nodeRx s = nodeRx ((raise (.crcMismatch n) s).setRxBuf (s.rxBuf.drop n)) := by
  obtain ⟨hpos, hle⟩ : 1 ≤ n ∧ n ≤ s.rxBuf.length := by
    simpa [h] using decodeOutcome_bounds s.cfg s.crc16Table s.rxBuf
  have hshort : (s.rxBuf.drop n).length < s.rxBuf.length := by rw [List.length_drop]; omega
  rw [nodeRx_pass hin, nodeRx_eq_rxLoop ((raise (.crcMismatch n) s).setRxBuf (s.rxBuf.drop n)) hin _ hshort]
  simp only [rxLoop, decodeFrame, h, noteOutcome, memDrop]

theorem nodeRx_of_frame {f : Frame} {n : Nat} (h : decodeOutcome s.cfg s.crc16Table s.rxBuf = .frame f n) :
    nodeRx s = nodeRx (nodeRxFrame f (s.setRxBuf (s.rxBuf.drop n))) := by
  obtain ⟨hpos, hle, -⟩ : 9 ≤ n ∧ n ≤ s.rxBuf.length ∧ f.payload.length ≤ 255 := by
    simpa [h] using decodeOutcome_bounds s.cfg s.crc16Table s.rxBuf
  obtain ⟨-, -, -, hbuf, hrx, -⟩ := nodeRxFrame_frame f (s.setRxBuf (s.rxBuf.drop n))
  have hshort : (nodeRxFrame f (s.setRxBuf (s.rxBuf.drop n))).rxBuf.length < s.rxBuf.length := by
    rw [hbuf, State.setRxBuf_rxBuf, List.length_drop]; omega
  rw [nodeRx_pass hin, nodeRx_eq_rxLoop _ (hrx.trans hin) _ hshort]
  simp only [rxLoop, decodeFrame, h, noteOutcome, memDrop]

end

/-- `FRAME.DECODE` answers its outcome, and leaves what it noted of it (R67). -/
theorem decodeOutcome_of_exec {s s1 : State} {buf : Bytes} {o : DecodeOutcome}
    (h : exec (.frameDecode buf) s = .next s1) (ho : s1.result = .decoded o) :
    decodeOutcome s.cfg s.crc16Table buf = o ∧ s1 = (noteOutcome o s).answer (.decoded o) := by
  obtain rfl := Host.Outcome.next.inj (exec_frameDecode.symm.trans h)
  obtain rfl := Response.decoded.inj ho
  exact ⟨rfl, rfl⟩

/-! ### The tick (R254) -/

section
variable {s : State} {now : Nat} {free : List Draw} (hm : s.mode = .run)
include hm

theorem exec_tick (hnow : s.clock ≤ now) : exec (.tick now free) s =
    .next ((tickPhases { s with clock := now, draws := free ++ s.draws }).answer .nothing) :=
  (acceptedIn_mem (by simp [hm]) _).trans (if_neg (Nat.not_lt.mpr hnow))

theorem exec_tick_backwards (hnow : now < s.clock) : exec (.tick now free) s = .refused .clockBackwards :=
  (acceptedIn_mem (by simp [hm]) _).trans (if_pos hnow)

end

/-- The phases run as operations of their own, each clearing the response, leave what the tick leaves. -/
theorem tickPhases_of_execs {s s1 s2 s3 s4 : State} (hacks : exec .nodeAcks s = .next s1)
    (htimers : exec .nodeTimers s1 = .next s2) (hadmit : exec .nodeAdmit s2 = .next s3)
    (hrx : exec .nodeRx s3 = .next s4) : s4 = (tickPhases s).answer .nothing := by
  rw [exec_nodeAcks] at hacks
  obtain rfl := Host.Outcome.next.inj hacks
  rw [exec_nodeTimers, nodeTimers_answer, State.answer_answer] at htimers
  obtain rfl := Host.Outcome.next.inj htimers
  rw [exec_nodeAdmit, nodeAdmit_answer] at hadmit
  obtain rfl := Host.Outcome.next.inj hadmit
  rw [exec_nodeRx, nodeRx_answer, State.answer_answer] at hrx
  exact (Host.Outcome.next.inj hrx).symm

/-- A tick ends with its receive phase (R261). -/
theorem tickPhases_rx (s : State) : (tickPhases s).rxIn = [] ∧ Settled (tickPhases s) := by
  obtain ⟨-, hmoved, hsettled, -⟩ := nodeRx_spec (nodeAdmit (nodeTimers (nodeAcks s)))
  exact ⟨congrArg State.rxIn hmoved, hsettled⟩

end Sys2Proof.Machine

open Sys2Proof Sys2Proof.Machine Sys2Proof.Laws

/-- Settles O36: a pass hands the head to its engine and leaves the rest queued; the frame is the phase's. -/
theorem nodeAcksDrainsTheQueue : Obligations.NodeAcksDrainsTheQueue := by
  refine ⟨EncodeSelects.nodeAcks, fun s hq => ?_, fun s s1 a rest hq => ?_, fun s => ⟨_, exec_nodeAcks s, ?_⟩⟩
  · rw [exec_nodeAcks, nodeAcks_nil hq]
    rfl
  · exact ⟨fun hm h => exec_nodeAcks_cons hq hm h, fun hm h => exec_nodeAcks_cons hq hm h⟩
  · exact congrArg (State.answer · .nothing) (nodeAcks_frame s)

/-- Settles O37: the scan cut after each destination. -/
theorem nodeTimersScansEveryDestinationOnce : Obligations.NodeTimersScansEveryDestinationOnce :=
  ⟨EncodeSelects.nodeTimers, fun s => ⟨fun k => (timersTo s k).answer .nothing, rfl,
    fun k _ => ⟨fun hm => exec_timeoutInstr_timersTo hm k, fun hm => exec_timeoutInstr_timersTo hm k⟩,
    exec_nodeTimers_timersTo s⟩⟩

/-- Settles O38: the room test of the head decides between the end of the phase and one more pass. -/
theorem nodeAdmitIsHeadOfLine : Obligations.NodeAdmitIsHeadOfLine := by
  refine ⟨EncodeSelects.nodeAdmit, fun s hq => ?_, fun s m rest hq => ?_, fun s => ?_⟩
  · rw [exec_nodeAdmit, nodeAdmit_nil hq]
    rfl
  · exact ⟨fun hm hbusy => exec_nodeAdmit_cons_full hq (hasRoom_sw_busy hm hbusy),
      fun hm hfull => exec_nodeAdmit_cons_full hq (hasRoom_gbn_full hm hfull),
      fun _ hm h => exec_nodeAdmit_cons_room hq hm h, fun _ hm h => exec_nodeAdmit_cons_room hq hm h⟩
  · obtain ⟨hmoved, hqueue⟩ := nodeAdmit_frame s
    exact ⟨_, exec_nodeAdmit s, hqueue, congrArg (State.answer · .nothing) hmoved⟩

/-- Settles O39: the response of `FRAME.DECODE` names the outcome that the pass finds. -/
theorem nodeRxHandlesEachOutcome : Obligations.NodeRxHandlesEachOutcome := by
  refine ⟨EncodeSelects.nodeRx, fun s => ?_, fun s s1 hin hdecode => ?_⟩
  · rw [exec_nodeRx, exec_nodeRx, ← nodeRx_join]
  refine ⟨fun h => ?_, fun h => ?_, fun n h => ?_, fun f n s2 h hframe => ?_⟩ <;>
    obtain ⟨houtcome, rfl⟩ := decodeOutcome_of_exec hdecode h
  · rw [exec_nodeRx, nodeRx_of_noSync hin houtcome, raise_noSync, keepLastByte_eq_drop, discardCount_eq]
    rfl
  · rw [exec_nodeRx, nodeRx_of_incomplete hin houtcome]
    rfl
  · rw [exec_nodeRx, exec_nodeRx, nodeRx_of_rejected hin houtcome, ← nodeRx_answer, ← nodeRx_answer]
    rfl
  · rw [exec_nodeRxFrame] at hframe
    obtain rfl := Host.Outcome.next.inj hframe
    have hdropped : ({ (noteOutcome (.frame f n) s).answer (.decoded (.frame f n)) with
        rxBuf := s.rxBuf.drop n } : State) = (s.setRxBuf (s.rxBuf.drop n)).answer (.decoded (.frame f n)) := rfl
    rw [exec_nodeRx, exec_nodeRx, nodeRx_of_frame hin houtcome, nodeRx_answer, State.answer_answer, hdropped,
      nodeRxFrame_answer, nodeRx_answer, State.answer_answer]

/-- Settles O40: the frame of the receive phase. -/
theorem nodeRxEndsSettled : Obligations.NodeRxEndsSettled := by
  intro s
  obtain ⟨-, hmoved, hsettled, hackq, hbuf⟩ := nodeRx_spec s
  exact ⟨_, exec_nodeRx s, hsettled, hackq, hbuf, congrArg (State.answer · .nothing) hmoved⟩

/-- Settles O49: the phases as operations of their own, and what the tick keeps and leaves. -/
theorem tickRunsTheFourPhases : Obligations.TickRunsTheFourPhases := by
  intro s now free
  refine ⟨EncodeSelects.tick now free, fun hm hnow => ⟨fun s1 s2 s3 s4 h1 h2 h3 h4 => ?_, ?_⟩,
    fun hm hnow => exec_tick_backwards hm hnow, fun hm => acceptedIn_not_mem (by simpa using hm) _⟩
  · have h : s4.answer .nothing = (tickPhases { s with clock := now, draws := free ++ s.draws }).answer .nothing := by
      rw [tickPhases_of_execs h1 h2 h3 h4, State.answer_answer]
    exact (exec_tick hm hnow).trans (congrArg _ h.symm)
  · have hgrows := tickPhases_grows { s with clock := now, draws := free ++ s.draws }
    obtain ⟨hrxIn, hsettled⟩ := tickPhases_rx { s with clock := now, draws := free ++ s.draws }
    have htxq := tickPhases_txq { s with clock := now, draws := free ++ s.draws }
    rw [exec_tick hm hnow]
    generalize tickPhases { s with clock := now, draws := free ++ s.draws } = t at *
    exact ⟨_, rfl, hgrows.clock, hgrows.mode.trans hm, hgrows.cfg, hgrows.table, hrxIn, hsettled, htxq, hgrows.draws,
      hgrows.port, rfl⟩

end

section
/-!
The receive path (spec/46_node_engine.md): one DATA frame (O42), the same frame received twice (O44), and the routing by
address and type (O41).
-/

namespace Sys2Proof.Machine

/-! ### What the operations answer (R263, R264) -/

section
variable {f : Frame} {s : State}

/-- `NODE.RX_DATA` delivers a frame in order and acknowledges its number. -/
theorem exec_nodeRxData_inOrder (h : f.seq = peerGet s.expectedRxSeq f.src) :
    ∃ e ds n, Sent s.cfg s.txFreeAt s.draws s.drawCount s.clock e ds n ∧
      exec (.nodeRxData f) s = .next { s with
        expectedRxSeq := peerSet s.expectedRxSeq f.src (f.seq + 1)
        deliverOut := s.deliverOut ++ [⟨f.src, f.payload⟩]
        txFreeAt := e
        txOut := s.txOut ++ [⟨frameBytes s.cfg s.crc16Table s.cfg.nodeAddr f.src f.seq typeAck [], e⟩]
        cnt := (s.cnt.inc .rxData).inc .txAck
        draws := ds
        drawCount := n
        result := .nothing } := by
  have hexpected : f.seq = peerGet (s.answer .nothing).expectedRxSeq f.src := h
  obtain ⟨e, ds, n, hsent, hrx⟩ := nodeRxData_spec f (s.answer .nothing)
  rw [afterVerdict, ackNumber, if_pos hexpected, if_pos hexpected] at hrx
  exact ⟨e, ds, n, hsent, congrArg _ hrx⟩

/-- `NODE.RX_DATA` delivers no other frame, and acknowledges the number before the expected one. -/
theorem exec_nodeRxData_notInOrder (h : f.seq ≠ peerGet s.expectedRxSeq f.src) :
    ∃ e ds n, Sent s.cfg s.txFreeAt s.draws s.drawCount s.clock e ds n ∧
      exec (.nodeRxData f) s = .next { s with
        txFreeAt := e
        txOut := s.txOut ++
          [⟨frameBytes s.cfg s.crc16Table s.cfg.nodeAddr f.src (peerGet s.expectedRxSeq f.src - 1) typeAck [], e⟩]
        cnt := (s.cnt.inc .rxData).inc .txAck
        draws := ds
        drawCount := n
        result := .nothing } := by
  have hunexpected : f.seq ≠ peerGet (s.answer .nothing).expectedRxSeq f.src := h
  obtain ⟨e, ds, n, hsent, hrx⟩ := nodeRxData_spec f (s.answer .nothing)
  rw [afterVerdict, ackNumber, if_neg hunexpected, if_neg hunexpected] at hrx
  exact ⟨e, ds, n, hsent, congrArg _ hrx⟩

theorem exec_nodeRxFrame_stranger (h : f.dst ≠ s.cfg.nodeAddr ∧ f.dst ≠ broadcast) :
    exec (.nodeRxFrame f) s = .next { s with result := .nothing } :=
  congrArg _ (nodeRxFrame_stranger (s := s.answer .nothing) h)

section
variable (h : f.dst = s.cfg.nodeAddr ∨ f.dst = broadcast)
include h

theorem exec_nodeRxFrame_data (ht : f.ty = typeData) : exec (.nodeRxFrame f) s = exec (.nodeRxData f) s :=
  congrArg _ (nodeRxFrame_data (s := s.answer .nothing) h ht)

theorem exec_nodeRxFrame_ackWithPayload (ht : f.ty = typeAck) (hp : f.payload ≠ []) :
    exec (.nodeRxFrame f) s = .next { s with
      cnt := s.cnt.inc .protoViolation, trace := s.trace ++ [.ackWithPayload], result := .nothing } :=
  congrArg _ ((nodeRxFrame_typeAck (s := s.answer .nothing) h ht).trans (if_pos hp))

theorem exec_nodeRxFrame_ack (ht : f.ty = typeAck) (hp : f.payload = []) :
    exec (.nodeRxFrame f) s = .next { s with
      cnt := s.cnt.inc .rxAck, ackq := s.ackq ++ [⟨f.src, f.seq⟩], result := .nothing } :=
  congrArg _ ((nodeRxFrame_typeAck (s := s.answer .nothing) h ht).trans (if_neg (not_not.mpr hp)))

theorem exec_nodeRxFrame_unknownType (hd : f.ty ≠ typeData) (ha : f.ty ≠ typeAck) :
    exec (.nodeRxFrame f) s = .next { s with
      cnt := s.cnt.inc .protoViolation, trace := s.trace ++ [.unknownType], result := .nothing } :=
  congrArg _ (nodeRxFrame_unknownType (s := s.answer .nothing) h hd ha)

end

end

end Sys2Proof.Machine

open Sys2Proof Sys2Proof.Machine Sys2Proof.Laws

/-- Settles O42: the two verdicts, each with its own delivery and ACK. -/
theorem nodeRxDataDeliversInOrderAndAcknowledges : Obligations.NodeRxDataDeliversInOrderAndAcknowledges := by
  rintro s f _ rfl
  refine ⟨EncodeSelects.nodeRxData f, fun hb => ?_⟩
  by_cases hseq : f.seq = peerGet s.expectedRxSeq f.src
  · obtain ⟨e, ds, n, hsent, hexec⟩ := exec_nodeRxData_inOrder hseq
    rw [← hseq]
    exact ⟨e, ds, n, hsent.emitted hb, ⟨hsent.consumed, hsent.counted⟩, fun _ => hexec, fun h => absurd rfl h⟩
  · obtain ⟨e, ds, n, hsent, hexec⟩ := exec_nodeRxData_notInOrder hseq
    exact ⟨e, ds, n, hsent.emitted hb, ⟨hsent.consumed, hsent.counted⟩, fun h => absurd h hseq, fun _ => hexec⟩

/-- Settles O44: the first copy moves the expectation past its own number, so the second is out of order, and the number
before the new expectation is the frame's own. -/
theorem duplicatesAreDeliveredOnceAndAcknowledgedTwice :
    Obligations.DuplicatesAreDeliveredOnceAndAcknowledgedTwice := by
  intro s f hty hdst hseq
  obtain ⟨e1, ds1, n1, -, hfirst⟩ := exec_nodeRxData_inOrder hseq
  obtain ⟨s1, hs1⟩ : ∃ s1, exec (.nodeRxData f) s = .next s1 := ⟨_, hfirst⟩
  have h1 := Host.Outcome.next.inj (hs1.symm.trans hfirst)
  have hcfg : s1.cfg = s.cfg := by rw [h1]
  have hexpected : peerGet s1.expectedRxSeq f.src = f.seq + 1 := by rw [h1]; exact peerGet_peerSet_self _ _ _
  obtain ⟨e2, ds2, n2, -, hsecond⟩ := exec_nodeRxData_notInOrder (f := f) (s := s1) (by rw [hexpected]; bv_omega)
  rw [hexpected, BitVec.add_sub_cancel] at hsecond
  refine ⟨s1, _, e1, e2, _, (exec_nodeRxFrame_data hdst hty).trans hs1,
    (exec_nodeRxFrame_data (hcfg ▸ hdst) hty).trans hsecond, rfl, ?_⟩
  simp [h1, Counters.inc, typeAck]

/-- Settles O41: the address filter and the three types, each by its equation. -/
theorem nodeRxFrameRoutesByAddressAndType : Obligations.NodeRxFrameRoutesByAddressAndType := fun _ f =>
  ⟨EncodeSelects.nodeRxFrame f, exec_nodeRxFrame_stranger, fun h =>
    ⟨exec_nodeRxFrame_data h, exec_nodeRxFrame_ackWithPayload h, exec_nodeRxFrame_ack h,
      exec_nodeRxFrame_unknownType h⟩⟩

end

section
/-!
The host operations (spec/46_node_engine.md): `CONFIG` and its ten clauses (O46), `RESET` (O45), `SUBMIT` (O47),
`RX_BYTES` (O48), `SHUTDOWN` (O50), and the step that runs what a request decodes to (O55).
-/

namespace Sys2Proof.Machine

/-! ### The codes of the two enumerations (log 15) -/

section
variable {b : Byte}

theorem arqModeOf_isNone_iff : (arqModeOf b).isNone = true ↔ ¬ (b = 0 ∨ b = 1) := by
  by_cases h : b = 0 ∨ b = 1
  · refine iff_of_false ?_ (not_not.mpr h)
    rcases h with rfl | rfl <;> decide
  · obtain ⟨h0, h1⟩ := not_or.mp h
    rw [arqModeOf, if_neg h0, if_neg h1]
    exact iff_of_true rfl h

theorem resyncModeOf_isNone_iff : (resyncModeOf b).isNone = true ↔ ¬ (b = 0 ∨ b = 1) := by
  by_cases h : b = 0 ∨ b = 1
  · refine iff_of_false ?_ (not_not.mpr h)
    rcases h with rfl | rfl <;> decide
  · obtain ⟨h0, h1⟩ := not_or.mp h
    rw [resyncModeOf, if_neg h0, if_neg h1]
    exact iff_of_true rfl h

section
variable (h : b = 0 ∨ b = 1)
include h

theorem arqModeOf_latched :
    ((arqModeOf b).getD .sw = .sw ↔ b = 0) ∧ ((arqModeOf b).getD .sw = .gbn ↔ b = 1) := by
  rcases h with rfl | rfl <;> decide

theorem resyncModeOf_latched :
    ((resyncModeOf b).getD .byte = .byte ↔ b = 0) ∧ ((resyncModeOf b).getD .byte = .candidate ↔ b = 1) := by
  rcases h with rfl | rfl <;> decide

end

end

/-! ### The clauses of R252 in order -/

theorem prob_legal_iff (p : Prob) : p.legal = true ↔ p.den ≠ 0 ∧ p.num ≤ p.den := by
  simp [Prob.legal]

section
variable {r : CfgRequest}

/-- The anchor test of clause 8, on a sync word that has passed clause 7. -/
theorem syncAnchored_iff (h : r.syncWord.length = 2) :
    syncAnchored r.preamble r.syncWord = true ↔ CfgClause r 8 := by
  obtain ⟨s0, s1, hsync⟩ := List.length_eq_two.mp h
  simp [CfgClause, syncAnchored, hsync, find2_eq_some_iff]

/-- What the search for a failing clause answers: none, when all are met, or the first that is not. -/
def NamesFirstFail (r : CfgRequest) : Option Nat → Prop
  | none => ∀ n, CfgClause r n
  | some n => ¬ CfgClause r n ∧ ∀ m, m < n → CfgClause r m

/-- The test of clause n, once the clauses before it are met: it names n, or leaves the rest to the later tests. -/
theorem namesFirstFail_step {n : Nat} {p : Prop} [Decidable p] {later : Option Nat} (hmet : ∀ m, m < n → CfgClause r m)
    (htest : p ↔ ¬ CfgClause r n) (hlater : (∀ m, m < n + 1 → CfgClause r m) → NamesFirstFail r later) :
    NamesFirstFail r (if p then some n else later) := by
  split
  · next hp => exact ⟨htest.mp hp, hmet⟩
  · next hp =>
    refine hlater fun m hm => ?_
    rcases Nat.lt_succ_iff_lt_or_eq.mp hm with hlt | rfl
    · exact hmet m hlt
    · exact not_not.mp fun hn => hp (htest.mpr hn)

/-- There is no clause beyond the tenth. -/
theorem cfgClause_of_first_ten (hmet : ∀ m, m < 11 → CfgClause r m) (n : Nat) : CfgClause r n := by
  by_cases hn : n < 11
  · exact hmet n hn
  · obtain ⟨k, rfl⟩ := Nat.exists_eq_add_of_le' (Nat.not_lt.mp hn)
    trivial

/-- The ten tests of `CONFIG` are the ten clauses, in their order (R252). -/
theorem cfgFirstFail_names (r : CfgRequest) : NamesFirstFail r (cfgFirstFail r) := by
  have hnone : ∀ m, m < 1 → CfgClause r m := fun m hm => by
    obtain rfl := Nat.lt_one_iff.mp hm
    trivial
  refine namesFirstFail_step hnone not_not.symm fun h => ?_
  refine namesFirstFail_step h arqModeOf_isNone_iff fun h => ?_
  refine namesFirstFail_step h Iff.rfl fun h => ?_
  refine namesFirstFail_step h Iff.rfl fun h => ?_
  refine namesFirstFail_step h (not_congr (prob_legal_iff _)) fun h => ?_
  refine namesFirstFail_step h Iff.rfl fun h => ?_
  refine namesFirstFail_step h Iff.rfl fun h => ?_
  refine namesFirstFail_step h (not_congr (syncAnchored_iff (h 7 (by decide)))) fun h => ?_
  refine namesFirstFail_step h Iff.rfl fun h => ?_
  exact namesFirstFail_step h resyncModeOf_isNone_iff cfgClause_of_first_ten

theorem cfgFirstFail_eq_none (h : ∀ n, CfgClause r n) : cfgFirstFail r = none := by
  have hnames := cfgFirstFail_names r
  cases hfail : cfgFirstFail r with
  | none => rfl
  | some n =>
    rw [hfail] at hnames
    exact absurd (h n) hnames.1

theorem cfgFirstFail_eq_some {n : Nat} (hfails : ¬ CfgClause r n) (hbefore : ∀ m, m < n → CfgClause r m) :
    cfgFirstFail r = some n := by
  have hnames := cfgFirstFail_names r
  cases hfail : cfgFirstFail r with
  | none =>
    rw [hfail] at hnames
    exact absurd (hnames n) hfails
  | some k =>
    rw [hfail] at hnames
    obtain ⟨hk, hbeforek⟩ := hnames
    rcases Nat.lt_trichotomy n k with hlt | rfl | hgt
    · exact absurd (hbeforek n hlt) hfails
    · rfl
    · exact absurd (hbefore k hgt) hk

end

/-! ### What the host operations answer (R250 to R262) -/

section
variable {s : State}

section
variable {r : CfgRequest} (hm : s.mode = .unconfigured)
include hm

theorem exec_config_valid (h : cfgFirstFail r = none) :
    exec (.config r) s = .next { s with cfg := toCfg r, mode := .run, result := .ok } := by
  refine (acceptedIn_mem (by simp [hm]) _).trans ?_
  rw [h]
  rfl

theorem exec_config_fails {n : Nat} (h : cfgFirstFail r = some n) :
    exec (.config r) s = .next { s with result := .errConfig, trace := s.trace ++ [.cfgClause n] } := by
  refine (acceptedIn_mem (by simp [hm]) _).trans ?_
  rw [h]
  rfl

end

section
variable {d : Addr} {p : Bytes} (hm : s.mode = .run)
include hm

theorem exec_submit_long (hp : 255 < p.length) : exec (.submit d p) s =
    .next { s with result := .errPayloadTooLong, trace := s.trace ++ [.payloadTooLong] } :=
  (acceptedIn_mem (by simp [hm]) _).trans (if_pos hp)

theorem exec_submit_busy (hp : p.length ≤ 255) (hfull : s.cfg.txqCap ≤ s.txq.length) :
    exec (.submit d p) s = .next { s with result := .busy } :=
  (acceptedIn_mem (by simp [hm]) _).trans ((if_neg (Nat.not_lt.mpr hp)).trans (if_pos hfull))

theorem exec_submit_queues (hp : p.length ≤ 255) (hroom : s.txq.length < s.cfg.txqCap) :
    exec (.submit d p) s = .next { s with txq := s.txq ++ [⟨d, p⟩], result := .ok } :=
  (acceptedIn_mem (by simp [hm]) _).trans ((if_neg (Nat.not_lt.mpr hp)).trans (if_neg (Nat.not_le.mpr hroom)))

theorem exec_rxBytes_run (b : Bytes) :
    exec (.rxBytes b) s = .next { s with rxIn := s.rxIn ++ b, result := .nothing } := acceptedIn_mem (by simp [hm]) _

theorem exec_shutdown_run : exec .shutdown s = .next (s.toStopped.answer .nothing) := by
  refine (acceptedIn_mem (by simp [hm]) _).trans ?_
  rw [if_pos hm]

end

theorem exec_shutdown_stopped (hm : s.mode = .stopped) : exec .shutdown s = .next { s with result := .nothing } := by
  refine (acceptedIn_mem (by simp [hm]) _).trans ?_
  rw [if_neg (by simp [hm])]
  rfl

end

/-! ### The step (R265) -/

theorem step_idle {s : State} (hp : s.port = []) : step s = .next s := by
  rw [step, fetch, hp]

section
variable {s : State} {q : Request} {rest : List Request} (hp : s.port = q :: rest)
include hp

theorem fetch_cons : fetch s = some (q, { s with port := rest }) := by
  rw [fetch, hp]

theorem step_undecodable {e : DecodeError} (hd : decode q.format q.bytes = .error e) :
    step s = .refused (.undecodable e) := by
  rw [step, fetch_cons hp]
  simp only [hd]

theorem step_decoded {i : Instr} (hd : decode q.format q.bytes = .ok i) : step s =
    if q.issuer = .host ∧ i.kind = .core then .refused .internalFromHost else exec i { s with port := rest } := by
  rw [step, fetch_cons hp]
  simp only [hd]

end

end Sys2Proof.Machine

open Sys2Proof Sys2Proof.Machine Sys2Proof.Laws

/-- Settles O46: the search names the first clause that fails, and what it finds decides. -/
theorem configLatchesExactlyTheValidRecords : Obligations.ConfigLatchesExactlyTheValidRecords := by
  intro s r
  refine ⟨EncodeSelects.config r, fun hm hall => ?_, fun hm n _ _ hfails hbefore => ?_,
    fun hm => acceptedIn_not_mem (by simpa using hm) _⟩
  · obtain ⟨hsw, hgbn⟩ := arqModeOf_latched (hall 2)
    obtain ⟨hbyte, hcandidate⟩ := resyncModeOf_latched (hall 10)
    exact ⟨toCfg r, exec_config_valid hm (cfgFirstFail_eq_none hall), rfl, hsw, hgbn, rfl, rfl, rfl, rfl, rfl, rfl, rfl,
      rfl, rfl, hbyte, hcandidate, rfl, rfl, rfl⟩
  · exact exec_config_fails hm (cfgFirstFail_eq_some hfails hbefore)

/-- Settles O45: the reset state's fields, with the table built by R131's loop. -/
theorem resetRestoresEveryStatedValue : Obligations.ResetRestoresEveryStatedValue := by
  refine ⟨EncodeSelects.reset, fun s => ⟨_, rfl, rfl, crc16Build_eq, rfl, rfl, peerGet_replicate 0, peerGet_replicate 0,
    fun k => (atRest_reset rfl rfl k).1, fun k => ⟨(atRest_reset rfl rfl k).2, ?_⟩, rfl, rfl, rfl, rfl, rfl, rfl, rfl,
    rfl, rfl, rfl, rfl, rfl, rfl⟩⟩
  exact congrArg GbnEntry.retry (peerGet_replicate GbnEntry.reset k)

/-- Settles O47: the length test, then the room test. -/
theorem submitQueuesOrRefusesWhole : Obligations.SubmitQueuesOrRefusesWhole := fun _ dst p =>
  ⟨EncodeSelects.submit dst p, fun hm => ⟨exec_submit_long hm, exec_submit_busy hm, exec_submit_queues hm⟩,
    fun hm => acceptedIn_not_mem (by simpa using hm) _⟩

/-- Settles O48: appending twice is appending once. -/
theorem rxBytesAppends : Obligations.RxBytesAppends := by
  intro s b c
  refine ⟨EncodeSelects.rxBytes b, fun hm => ⟨exec_rxBytes_run hm b, fun s1 h => ?_⟩,
    fun hm => acceptedIn_not_mem (by simpa using hm) _⟩
  obtain rfl := Host.Outcome.next.inj ((exec_rxBytes_run hm b).symm.trans h)
  rw [exec_rxBytes_run hm, exec_rxBytes_run (by exact hm), List.append_assoc]

/-- Settles O50: the two maps are changed entry by entry, and the three modes are told apart by the guard. -/
theorem shutdownBringsEverythingToRest : Obligations.ShutdownBringsEverythingToRest :=
  ⟨EncodeSelects.shutdown, fun s =>
    ⟨fun hm => ⟨_, exec_shutdown_run hm, peerGet_map SwEntry.toIdle s.sw, peerGet_map GbnEntry.toIdle s.gbn, rfl⟩,
      exec_shutdown_stopped, fun hm => acceptedIn_not_mem (by simp [hm]) _⟩⟩

/-- Settles O55: the decoder's answer decides, then who issued the request. -/
theorem stepRunsTheDecodedInstruction : Obligations.StepRunsTheDecodedInstruction := by
  refine ⟨fun s q rest i hp hd => ⟨fun hallowed => ?_, fun hhost hcore => ?_⟩, fun s => step_idle,
    fun s q rest e hp hd => step_undecodable hp hd⟩
  · rw [step_decoded hp hd, if_neg (by rcases hallowed with h | h <;> simp [h])]
  · rw [step_decoded hp hd, if_pos ⟨hhost, hcore⟩]

end

section
/-!
Admissions that `FRAME.ENCODE` cannot frame (O33): `SW.START` and `GBN.ADMIT` pass their guard and then have only the
entry actions of the error (R294, log 14).
-/

namespace Sys2Proof.Machine

section
variable {s : State} {d : Addr} {p : Bytes} (hp : 255 < p.length)
include hp

/-- `SW.START` on an idle exchange with a payload that does not fit (R294). -/
theorem exec_swStart_long (hidle : (peerGet s.sw d).state = .idle) :
    exec (.swStart d p) s = .next (raise .payloadTooLong (s.answer .nothing)) := by
  have hguard : exchangeIdle s d = true := beq_iff_eq.mpr hidle
  exact (if_pos hguard).trans (congrArg _ (swStart_long d p _ hp))

/-- `GBN.ADMIT` into a window with room with a payload that does not fit (R294). -/
theorem exec_gbnAdmit_long (hroom : (peerGet s.gbn d).window.length < s.cfg.windowSize) :
    exec (.gbnAdmit d p) s = .next (raise .payloadTooLong (s.answer .nothing)) := by
  have hguard : windowHasRoom s d = true := decide_eq_true hroom
  exact (if_pos hguard).trans (congrArg _ (gbnAdmit_long d p _ hp))

end

end Sys2Proof.Machine

open Sys2Proof Sys2Proof.Machine

/-- Settles O33: past the guard each admission only raises the error, whose entry actions overwrite the answer. -/
theorem oversizedAdmissionsHaveNoOtherEffect : Obligations.OversizedAdmissionsHaveNoOtherEffect := by
  intro s dst p hp
  have hraised : raise .payloadTooLong (s.answer .nothing) =
      { s with result := .errPayloadTooLong, trace := s.trace ++ [.payloadTooLong] } :=
    raise_payloadTooLong (s.answer .nothing)
  exact ⟨fun hidle => (exec_swStart_long hp hidle).trans (congrArg _ hraised),
    fun hroom => (exec_gbnAdmit_long hp hroom).trans (congrArg _ hraised)⟩

end
